-- ==== Sys2Proof/Word.lean ====
section
/-! DEFINITION. The two word types the spec names by width (00_scope.md R9): u8 and u16. -/

namespace Sys2Proof

/-- `u8` of R9. -/
abbrev Byte := BitVec 8

/-- `u16` of R9. -/
abbrev Word := BitVec 16

end Sys2Proof
end

