-- ==== Sys2Proof/Config.lean ====
section
/-! DEFINITION. The constants of 00_scope.md R6, the parameters R6 leaves OPEN (free constants: no body, so nothing
can be proved of their value), and the answers the environments give (R14, R15). -/

namespace Sys2Proof

/-- One thing the serial transport has ready for the block's reads: a chunk of received bytes, or a failure of the
read. An empty chunk is a zero-length read (R14). Log 7. -/
inductive RxEvent where
  | data (bytes : List Byte)
  | fail
  deriving DecidableEq, Repr

/-- The transport's answer to `SerWrite` (R14). `fail sent`: the write failed after `sent` bytes went out. Log 8. -/
inductive SerWriteAnswer where
  | ok
  | fail (sent : Nat)
  deriving DecidableEq, Repr, Inhabited

/-- The bus transport's own error value, opaque to the block (R15, R190): a token that is passed on. Log 9. -/
abbrev BusError := Nat

/-- The bus's answer to `BusWrite` (R15). `fail e sent`: error `e` after `sent` bytes were shifted out. Log 9. -/
inductive BusAnswer where
  | ok
  | fail (e : BusError) (sent : Nat)
  deriving DecidableEq, Repr, Inhabited

namespace Config

/-! Constants of R6. -/

def crcSeed : Word := 0xFFFF
def crcPoly : Word := 0xA001
def fnRead : Byte := 0x03
def fnWrite : Byte := 0x06
def excBit : Byte := 0x80
def readCount : Word := 1
def readRspLen : Nat := 7
def writeRspLen : Nat := 8
def readByteCount : Byte := 2

def regEmptyHeight : Word := 0x0001
def regWaterLevel : Word := 0x0003
def regInstallHeight : Word := 0x0005
def regDeviceAddress : Word := 0x03F4
def regBaudCode : Word := 0x03F6
def regRange : Word := 0x07D4

def addrMin : Byte := 0x01
def addrMax : Byte := 0xFD

/-- `BAUD_SET`, as R6 and R130 list it (129000 as written, U14; log 21). -/
def baudSet : List Nat := [4800, 9600, 14400, 19200, 38400, 56000, 57600, 115200, 129000]

def width : Nat := 400
def height : Nat := 240
def lineBytes : Nat := 50
def fbBytes : Nat := 12000

def mWrite : Byte := 0x01
def mClear : Byte := 0x04
def mToggle : Byte := 0x00
def lineBase : Nat := 1

/-! Parameters that R6 leaves OPEN, and the environments' answers: free constants. -/

/-- `DEV_ADDR_INIT` (R6, R21, D5): any address. Log 4. -/
opaque devAddrInit : Byte

/-- `FB_INIT` (R6, R24, D20): any byte at each address. Log 5. -/
opaque fbInit : Nat → Byte

/-- `PANEL_CLEAR_BYTE` (R6, D19): the panel's image byte after a hardware clear. Log 10. -/
opaque panelClearByte : Byte

/-- `DRAIN_EMIT_PARTIAL` (R6, D25): whether the drain logs an unterminated last line. Log 19. -/
opaque drainEmitPartial : Bool

/-- The select line's level after a failed transaction, by draw (R23, R160, D17: "unspecified, 0 or 1"). Log 6. -/
opaque selectAfterFailure : Nat → Bool

/-- What the serial transport holds at creation: residue, boot text (R32, R36). Log 7. -/
opaque serialRxInit : List RxEvent

/-- What the serial transport has for the block's reads from the n-th draw on until it falls silent (R14, R33, R217):
any finite list of chunks and failures. Log 7. -/
opaque serSupply : Nat → List RxEvent

/-- The transport's answer to a `SerWrite`, by draw (R14, R217). Log 8. -/
opaque serWriteAnswer : Nat → SerWriteAnswer

/-- The bus's answer to a `BusWrite`, by draw (R15, R217). Log 9. -/
opaque busAnswer : Nat → BusAnswer

end Config

end Sys2Proof
end

