-- ==== Sys2Proof/Syntax.lean ====
section
/-! DEFINITION. The instruction set: one constructor for each row of spec/opcode_table.json, the ten wire forms
(30_encoding.md R60) and the 22 host operations (R85). -/

namespace Sys2Proof

/-- The two pixel values (00_scope.md R19, 43_framebuffer.md R143): light is bit value 1, dark is 0. -/
inductive Colour where
  | dark
  | light
  deriving DecidableEq, Repr

/-- The interface a word belongs to: the host's command words (R72), the two directions of the serial link (R61),
the display bus (R67). Two wire forms can have the same bytes, so a word is read by its channel. Log 3. -/
inductive Channel where
  | host
  | toSensor
  | fromSensor
  | display
  deriving DecidableEq, Repr

/-- Rows of the opcode table. A wire form carries the fields its pattern names by letter (R60); `crc` is the CRC
field with `c` its low byte and `C` its high byte (R74). -/
inductive Instr where
  /-- MRQ-R, read request, block to sensor (R62). -/
  | mrqR (addr : Byte) (reg : Word) (crc : Word)
  /-- MRS-R, read response, sensor to block (R63). -/
  | mrsR (addr : Byte) (val : Word) (crc : Word)
  /-- MRQ-W, write request, block to sensor (R64). -/
  | mrqW (addr : Byte) (reg : Word) (val : Word) (crc : Word)
  /-- MRS-W, write response, sensor to block (R64). -/
  | mrsW (addr : Byte) (reg : Word) (val : Word) (crc : Word)
  /-- MRS-X, exception response, sensor to block (R65); `fn` is the 7-bit function code below the exception bit. -/
  | mrsX (addr : Byte) (fn : BitVec 7) (code : Byte) (crc : Word)
  /-- DCL, hardware clear transaction (R68). -/
  | dcl (polarity : Bool)
  /-- DTG, toggle-only transaction (R69). -/
  | dtg (polarity : Bool)
  /-- DWR.header, the mode byte of a partial write (R70). -/
  | dwrHeader (polarity : Bool)
  /-- DWR.line, one line record of a partial write (R70): wire line address and 50 pixel bytes. -/
  | dwrLine (line : Byte) (pixels : List Byte)
  /-- DWR.trailer, the final byte of a partial write (R70). -/
  | dwrTrailer
  /-- CRC16 (R92). -/
  | crc16 (data : List Byte)
  /-- RDHR, read holding register (R104). -/
  | rdhr (reg : Word)
  /-- WRSR, write single register (R105). -/
  | wrsr (reg : Word) (val : Word)
  /-- GETEMPTY (R122). -/
  | getempty
  /-- GETLEVEL (R123). -/
  | getlevel
  /-- GETINST (R124). -/
  | getinst
  /-- SETINST (R125). -/
  | setinst (val : Word)
  /-- GETADDR (R126). -/
  | getaddr
  /-- SETADDR (R128). -/
  | setaddr (a : Byte)
  /-- GETBAUD (R129). -/
  | getbaud
  /-- SETBAUD (R130). -/
  | setbaud (baud : BitVec 32)
  /-- GETRANGE (R131). -/
  | getrange
  /-- SETRANGE (R132). -/
  | setrange (val : Word)
  /-- DRAIN (R133). -/
  | drain
  /-- SETPIX (R141); x and y are two's-complement `i16` (R73). -/
  | setpix (x : Word) (y : Word) (c : Colour)
  /-- GETPIX (R142). -/
  | getpix (x : Word) (y : Word)
  /-- CLEARTO (R144). -/
  | clearto (c : Colour) (mark : Bool)
  /-- MARKALL (R145). -/
  | markall
  /-- SIZE (R148). -/
  | size
  /-- HWCLEAR (R161). -/
  | hwclear
  /-- TOGGLE (R162). -/
  | toggle
  /-- FLUSH (R163). -/
  | flush
  deriving DecidableEq, Repr

end Sys2Proof
end

