-- ==== Sys2Proof/WellFormed.lean ====
section
/-! DEFINITION. Which instruction terms have an encoding: the bounds that the operand types do not already hold. -/

namespace Sys2Proof

/-- A term is well formed when its row of the opcode table has words for it. Two rows have a bound of their own:
a CRC16 command word holds at most 65535 data bytes (R88), and a line record holds exactly 50 pixel bytes (R70). -/
def wellFormed : Instr → Bool
  | .crc16 data => decide (data.length ≤ 65535)
  | .dwrLine _ pixels => decide (pixels.length = Config.lineBytes)
  | .mrqR _ _ _ => true
  | .mrsR _ _ _ => true
  | .mrqW _ _ _ _ => true
  | .mrsW _ _ _ _ => true
  | .mrsX _ _ _ _ => true
  | .dcl _ => true
  | .dtg _ => true
  | .dwrHeader _ => true
  | .dwrTrailer => true
  | .rdhr _ => true
  | .wrsr _ _ => true
  | .getempty => true
  | .getlevel => true
  | .getinst => true
  | .setinst _ => true
  | .getaddr => true
  | .setaddr _ => true
  | .getbaud => true
  | .setbaud _ => true
  | .getrange => true
  | .setrange _ => true
  | .drain => true
  | .setpix _ _ _ => true
  | .getpix _ _ => true
  | .clearto _ _ => true
  | .markall => true
  | .size => true
  | .hwclear => true
  | .toggle => true
  | .flush => true

end Sys2Proof
end

