-- ==== Sys2Proof/Decode.lean ====
section
/-! DEFINITION. Bytes to instructions and back (30_encoding.md): byte-order and field helpers, the decoder, which is
total and rejects by name, the encoder, and the opcode table's own masks. -/

namespace Sys2Proof

/-! ## Byte order and fields (00_scope.md R10) -/

/-- `hi(w) = w[15:8]` (R10). -/
def hi (w : Word) : Byte := w.extractLsb' 8 8

/-- `lo(w) = w[7:0]` (R10). -/
def lo (w : Word) : Byte := w.extractLsb' 0 8

/-- `be16(h, l)`: two bytes in wire order, high byte first (R10, R45). -/
def be16 (h l : Byte) : Word := h ++ l

/-- `le16(l, h)`: two bytes in wire order, low byte first (R10, R46). -/
def le16 (l h : Byte) : Word := h ++ l

/-- A 16-bit field sent high byte first (R45, R72, R77). -/
def bigEndian16 (w : Word) : List Byte := [hi w, lo w]

/-- The CRC field, low byte first (R46, R74, R93). -/
def crcField (c : Word) : List Byte := [lo c, hi c]

/-- Four bytes, most significant first (R73, SETBAUD). -/
def be32 (b3 b2 b1 b0 : Byte) : BitVec 32 := b3 ++ b2 ++ b1 ++ b0

/-- A 32-bit operand sent most significant byte first (R73). -/
def bigEndian32 (v : BitVec 32) : List Byte :=
  [v.extractLsb' 24 8, v.extractLsb' 16 8, v.extractLsb' 8 8, v.extractLsb' 0 8]

/-- The polarity bit as a number, 0 or 1 (R22). -/
def polarityByte (p : Bool) : Byte := if p then 1 else 0

/-- `mode = kind | (P << 1)` (R67, R75). -/
def modeByte (kind : Byte) (p : Bool) : Byte := kind ||| (polarityByte p <<< 1)

/-- The function byte with the exception bit set (R65, R66). -/
def exceptionFunction (fn : BitVec 7) : Byte := Config.excBit ||| fn.setWidth 8

/-- The colour operand as the bit value itself: light 1, dark 0 (R78, R143). -/
def colourBit : Colour → Bool
  | .light => true
  | .dark => false

/-- The colour a bit value stands for (R143). -/
def colourOf (b : Bool) : Colour := if b then .light else .dark

/-- SETPIX's colour byte: 0x00 dark, 0x01 light (R73). -/
def colourByte (c : Colour) : Byte := if colourBit c then 1 else 0

/-- CLEARTO's operand byte: bit 0 colour, bit 1 mark, bits 7:2 zero (R73). -/
def clearOperand (c : Colour) (mark : Bool) : Byte := colourByte c ||| ((if mark then 1 else 0) <<< 1)

/-! ## Decoding -/

/-- Why a word is no instruction (R83 for command words; for the wire channels, no row of R60 matches). -/
inductive DecodeError where
  /-- A word with no byte. -/
  | empty
  /-- The selector is not in the table of R73. -/
  | unknownSelector (selector : Byte)
  /-- The length is not the table's for this selector. -/
  | wrongLength (selector : Byte)
  /-- SETPIX's colour byte is neither 0x00 nor 0x01. -/
  | badColour (b : Byte)
  /-- CLEARTO's operand byte has one of bits 7 to 2 set. -/
  | reservedBits (b : Byte)
  /-- The bytes match no wire form of this channel (R60, R79, R80). -/
  | noWireForm (channel : Channel)
  deriving DecidableEq, Repr

/-- A command word with no operand bytes. -/
def decodeBare (i : Instr) (sel : Byte) (ops : List Byte) : Except DecodeError Instr :=
  match ops with
  | [] => .ok i
  | _ => .error (.wrongLength sel)

/-- A command word with one 16-bit operand. -/
def decodeWord16 (mk : Word → Instr) (sel : Byte) (ops : List Byte) : Except DecodeError Instr :=
  match ops with
  | [h, l] => .ok (mk (be16 h l))
  | _ => .error (.wrongLength sel)

/-- A command word with two 16-bit operands. -/
def decodeWord16x2 (mk : Word → Word → Instr) (sel : Byte) (ops : List Byte) : Except DecodeError Instr :=
  match ops with
  | [h1, l1, h2, l2] => .ok (mk (be16 h1 l1) (be16 h2 l2))
  | _ => .error (.wrongLength sel)

/-- CRC16's word: a 16-bit length n, then n data bytes (R73). -/
def decodeCrc16 (sel : Byte) (ops : List Byte) : Except DecodeError Instr :=
  match ops with
  | h :: l :: data => if data.length = (be16 h l).toNat then .ok (.crc16 data) else .error (.wrongLength sel)
  | _ => .error (.wrongLength sel)

/-- SETADDR's word: one address byte (R73). -/
def decodeSetaddr (sel : Byte) (ops : List Byte) : Except DecodeError Instr :=
  match ops with
  | [a] => .ok (.setaddr a)
  | _ => .error (.wrongLength sel)

/-- SETBAUD's word: four bytes, most significant first (R73). -/
def decodeSetbaud (sel : Byte) (ops : List Byte) : Except DecodeError Instr :=
  match ops with
  | [b3, b2, b1, b0] => .ok (.setbaud (be32 b3 b2 b1 b0))
  | _ => .error (.wrongLength sel)

/-- SETPIX's word: x, y, colour byte (R73, R83). -/
def decodeSetpix (sel : Byte) (ops : List Byte) : Except DecodeError Instr :=
  match ops with
  | [xh, xl, yh, yl, c] =>
    if c = 0 ∨ c = 1 then .ok (.setpix (be16 xh xl) (be16 yh yl) (colourOf (c.getLsbD 0)))
    else .error (.badColour c)
  | _ => .error (.wrongLength sel)

/-- CLEARTO's word: one operand byte (R73, R83). -/
def decodeClearto (sel : Byte) (ops : List Byte) : Except DecodeError Instr :=
  match ops with
  | [b] =>
    if b >>> 2 = 0 then .ok (.clearto (colourOf (b.getLsbD 0)) (b.getLsbD 1)) else .error (.reservedBits b)
  | _ => .error (.wrongLength sel)

/-- Host command words: the selector table of R73. -/
def decodeHost (bytes : List Byte) : Except DecodeError Instr :=
  match bytes with
  | [] => .error .empty
  | sel :: ops =>
    if sel = 0x01 then decodeCrc16 sel ops
    else if sel = 0x10 then decodeWord16 .rdhr sel ops
    else if sel = 0x11 then decodeWord16x2 .wrsr sel ops
    else if sel = 0x20 then decodeBare .getempty sel ops
    else if sel = 0x21 then decodeBare .getlevel sel ops
    else if sel = 0x22 then decodeBare .getinst sel ops
    else if sel = 0x23 then decodeWord16 .setinst sel ops
    else if sel = 0x24 then decodeBare .getaddr sel ops
    else if sel = 0x25 then decodeSetaddr sel ops
    else if sel = 0x26 then decodeBare .getbaud sel ops
    else if sel = 0x27 then decodeSetbaud sel ops
    else if sel = 0x28 then decodeBare .getrange sel ops
    else if sel = 0x29 then decodeWord16 .setrange sel ops
    else if sel = 0x2A then decodeBare .drain sel ops
    else if sel = 0x40 then decodeSetpix sel ops
    else if sel = 0x41 then decodeWord16x2 .getpix sel ops
    else if sel = 0x42 then decodeClearto sel ops
    else if sel = 0x43 then decodeBare .markall sel ops
    else if sel = 0x44 then decodeBare .size sel ops
    else if sel = 0x50 then decodeBare .hwclear sel ops
    else if sel = 0x51 then decodeBare .toggle sel ops
    else if sel = 0x52 then decodeBare .flush sel ops
    else .error (.unknownSelector sel)

/-- Frames from the block to the sensor: MRQ-R (R62) and MRQ-W (R64). -/
def decodeToSensor (bytes : List Byte) : Except DecodeError Instr :=
  match bytes with
  | [] => .error .empty
  | [a, f, rh, rl, vh, vl, cl, ch] =>
    if f = Config.fnRead ∧ be16 vh vl = Config.readCount then .ok (.mrqR a (be16 rh rl) (le16 cl ch))
    else if f = Config.fnWrite then .ok (.mrqW a (be16 rh rl) (be16 vh vl) (le16 cl ch))
    else .error (.noWireForm .toSensor)
  | _ => .error (.noWireForm .toSensor)

/-- Frames from the sensor to the block: MRS-R (R63), MRS-W (R64), MRS-X (R65). -/
def decodeFromSensor (bytes : List Byte) : Except DecodeError Instr :=
  match bytes with
  | [] => .error .empty
  | [a, f, e, cl, ch] =>
    if f &&& Config.excBit ≠ 0 then .ok (.mrsX a (f.setWidth 7) e (le16 cl ch))
    else .error (.noWireForm .fromSensor)
  | [a, f, n, vh, vl, cl, ch] =>
    if f = Config.fnRead ∧ n = Config.readByteCount then .ok (.mrsR a (be16 vh vl) (le16 cl ch))
    else .error (.noWireForm .fromSensor)
  | [a, f, rh, rl, vh, vl, cl, ch] =>
    if f = Config.fnWrite then .ok (.mrsW a (be16 rh rl) (be16 vh vl) (le16 cl ch))
    else .error (.noWireForm .fromSensor)
  | _ => .error (.noWireForm .fromSensor)

/-- One-byte display parts: DWR.header and DWR.trailer (R70). -/
def decodeDisplayByte (m : Byte) : Except DecodeError Instr :=
  if m = 0 then .ok .dwrTrailer
  else if m = modeByte Config.mWrite false then .ok (.dwrHeader false)
  else if m = modeByte Config.mWrite true then .ok (.dwrHeader true)
  else .error (.noWireForm .display)

/-- Two-byte display transactions: DCL (R68) and DTG (R69). -/
def decodeDisplayPair (m : Byte) : Except DecodeError Instr :=
  if m = modeByte Config.mClear false then .ok (.dcl false)
  else if m = modeByte Config.mClear true then .ok (.dcl true)
  else if m = modeByte Config.mToggle false then .ok (.dtg false)
  else if m = modeByte Config.mToggle true then .ok (.dtg true)
  else .error (.noWireForm .display)

/-- A line record: wire line address, 50 pixel bytes, 0x00 (R70). -/
def decodeLineRecord (l : Byte) (rest : List Byte) : Except DecodeError Instr :=
  if rest.length = Config.lineBytes + 1 ∧ rest.drop Config.lineBytes = [0] then
    .ok (.dwrLine l (rest.take Config.lineBytes))
  else .error (.noWireForm .display)

/-- Display transactions and their parts (R68 to R70). -/
def decodeDisplay (bytes : List Byte) : Except DecodeError Instr :=
  match bytes with
  | [] => .error .empty
  | [m] => decodeDisplayByte m
  | [m, z] => if z = 0 then decodeDisplayPair m else .error (.noWireForm .display)
  | l :: rest => decodeLineRecord l rest

/-- The decoder: a word is read by the channel it came on. Total; a word outside the tables is rejected by name. -/
def decode (ch : Channel) (bytes : List Byte) : Except DecodeError Instr :=
  match ch with
  | .host => decodeHost bytes
  | .toSensor => decodeToSensor bytes
  | .fromSensor => decodeFromSensor bytes
  | .display => decodeDisplay bytes

/-! ## Encoding -/

/-- The channel a row of the table belongs to (the row's format and direction). -/
def channelOf : Instr → Channel
  | .mrqR _ _ _ => .toSensor
  | .mrsR _ _ _ => .fromSensor
  | .mrqW _ _ _ _ => .toSensor
  | .mrsW _ _ _ _ => .fromSensor
  | .mrsX _ _ _ _ => .fromSensor
  | .dcl _ => .display
  | .dtg _ => .display
  | .dwrHeader _ => .display
  | .dwrLine _ _ => .display
  | .dwrTrailer => .display
  | .crc16 _ => .host
  | .rdhr _ => .host
  | .wrsr _ _ => .host
  | .getempty => .host
  | .getlevel => .host
  | .getinst => .host
  | .setinst _ => .host
  | .getaddr => .host
  | .setaddr _ => .host
  | .getbaud => .host
  | .setbaud _ => .host
  | .getrange => .host
  | .setrange _ => .host
  | .drain => .host
  | .setpix _ _ _ => .host
  | .getpix _ _ => .host
  | .clearto _ _ => .host
  | .markall => .host
  | .size => .host
  | .hwclear => .host
  | .toggle => .host
  | .flush => .host

/-- MRQ-R's bytes before the CRC (R62). -/
def readRequestBody (addr : Byte) (reg : Word) : List Byte :=
  [addr, Config.fnRead] ++ bigEndian16 reg ++ bigEndian16 Config.readCount

/-- MRQ-W's bytes before the CRC, and MRS-W's (R64). -/
def writeRequestBody (addr : Byte) (reg val : Word) : List Byte :=
  [addr, Config.fnWrite] ++ bigEndian16 reg ++ bigEndian16 val

/-- MRS-R's bytes before the CRC (R63). -/
def readResponseBody (addr : Byte) (val : Word) : List Byte :=
  [addr, Config.fnRead, Config.readByteCount] ++ bigEndian16 val

/-- MRS-X's bytes before the CRC (R65). -/
def exceptionBody (addr : Byte) (fn : BitVec 7) (code : Byte) : List Byte :=
  [addr, exceptionFunction fn, code]

/-- One line record of a partial write: wire line address, the 50 bytes, 0x00 (R70). -/
def lineRecord (line : Byte) (pixels : List Byte) : List Byte :=
  line :: (pixels ++ [0])

/-- The encoder: the bytes of an instruction in order of transmission (R60). -/
def encode : Instr → List Byte
  | .mrqR addr reg crc => readRequestBody addr reg ++ crcField crc
  | .mrsR addr val crc => readResponseBody addr val ++ crcField crc
  | .mrqW addr reg val crc => writeRequestBody addr reg val ++ crcField crc
  | .mrsW addr reg val crc => writeRequestBody addr reg val ++ crcField crc
  | .mrsX addr fn code crc => exceptionBody addr fn code ++ crcField crc
  | .dcl p => [modeByte Config.mClear p, 0]
  | .dtg p => [modeByte Config.mToggle p, 0]
  | .dwrHeader p => [modeByte Config.mWrite p]
  | .dwrLine line pixels => lineRecord line pixels
  | .dwrTrailer => [0]
  | .crc16 data => 0x01 :: (bigEndian16 (BitVec.ofNat 16 data.length) ++ data)
  | .rdhr reg => 0x10 :: bigEndian16 reg
  | .wrsr reg val => 0x11 :: (bigEndian16 reg ++ bigEndian16 val)
  | .getempty => [0x20]
  | .getlevel => [0x21]
  | .getinst => [0x22]
  | .setinst val => 0x23 :: bigEndian16 val
  | .getaddr => [0x24]
  | .setaddr a => [0x25, a]
  | .getbaud => [0x26]
  | .setbaud baud => 0x27 :: bigEndian32 baud
  | .getrange => [0x28]
  | .setrange val => 0x29 :: bigEndian16 val
  | .drain => [0x2A]
  | .setpix x y c => 0x40 :: (bigEndian16 x ++ bigEndian16 y ++ [colourByte c])
  | .getpix x y => 0x41 :: (bigEndian16 x ++ bigEndian16 y)
  | .clearto c mark => [0x42, clearOperand c mark]
  | .markall => [0x43]
  | .size => [0x44]
  | .hwclear => [0x50]
  | .toggle => [0x51]
  | .flush => [0x52]

/-! ## The opcode table's own numbers (R60) -/

/-- A row of opcode_table.json: how many bytes its pattern has, its mask and its match, each one number whose first
two hexadecimal digits are byte 0 (R60). -/
structure TableRow where
  bytes : Nat
  mask : Nat
  fixed : Nat
  deriving DecidableEq, Repr

/-- The row of each instruction, copied from the table. -/
def tableRow : Instr → TableRow
  | .mrqR _ _ _ => ⟨8, 0x00FF0000FFFF0000, 0x0003000000010000⟩
  | .mrsR _ _ _ => ⟨7, 0x00FFFF00000000, 0x00030200000000⟩
  | .mrqW _ _ _ _ => ⟨8, 0x00FF000000000000, 0x0006000000000000⟩
  | .mrsW _ _ _ _ => ⟨8, 0x00FF000000000000, 0x0006000000000000⟩
  | .mrsX _ _ _ _ => ⟨5, 0x0080000000, 0x0080000000⟩
  | .dcl _ => ⟨2, 0xFDFF, 0x0400⟩
  | .dtg _ => ⟨2, 0xFDFF, 0x0000⟩
  | .dwrHeader _ => ⟨1, 0xFD, 0x01⟩
  | .dwrLine _ _ => ⟨52, 0xFF, 0x00⟩
  | .dwrTrailer => ⟨1, 0xFF, 0x00⟩
  | .crc16 _ => ⟨3, 0xFF0000, 0x010000⟩
  | .rdhr _ => ⟨3, 0xFF0000, 0x100000⟩
  | .wrsr _ _ => ⟨5, 0xFF00000000, 0x1100000000⟩
  | .getempty => ⟨1, 0xFF, 0x20⟩
  | .getlevel => ⟨1, 0xFF, 0x21⟩
  | .getinst => ⟨1, 0xFF, 0x22⟩
  | .setinst _ => ⟨3, 0xFF0000, 0x230000⟩
  | .getaddr => ⟨1, 0xFF, 0x24⟩
  | .setaddr _ => ⟨2, 0xFF00, 0x2500⟩
  | .getbaud => ⟨1, 0xFF, 0x26⟩
  | .setbaud _ => ⟨5, 0xFF00000000, 0x2700000000⟩
  | .getrange => ⟨1, 0xFF, 0x28⟩
  | .setrange _ => ⟨3, 0xFF0000, 0x290000⟩
  | .drain => ⟨1, 0xFF, 0x2A⟩
  | .setpix _ _ _ => ⟨6, 0xFF00000000FE, 0x400000000000⟩
  | .getpix _ _ => ⟨5, 0xFF00000000, 0x4100000000⟩
  | .clearto _ _ => ⟨2, 0xFFFC, 0x4200⟩
  | .markall => ⟨1, 0xFF, 0x43⟩
  | .size => ⟨1, 0xFF, 0x44⟩
  | .hwclear => ⟨1, 0xFF, 0x50⟩
  | .toggle => ⟨1, 0xFF, 0x51⟩
  | .flush => ⟨1, 0xFF, 0x52⟩

/-- A byte sequence as one number whose first two hexadecimal digits are byte 0 (R60). -/
def bytesNumber (bytes : List Byte) : Nat := bytes.foldl (fun n b => n * 256 + b.toNat) 0

/-- A number as `n` bytes, its top two hexadecimal digits first (R60). -/
def numberBytes (n w : Nat) : List Byte :=
  (List.range n).map fun i => BitVec.ofNat 8 (w >>> (8 * (n - 1 - i)))

/-- The operand bytes a table row gives no bits to, as zeros: a CRC16 word's data bytes (its pattern has only the
selector and the length). -/
def padOperands (bytes : List Byte) : List Byte :=
  match bytes with
  | [sel, h, l] => if sel = 0x01 then bytes ++ List.replicate (be16 h l).toNat 0 else bytes
  | _ => bytes

/-- The channel of a table word, by its length and first byte: no two rows of the table of one length overlap but
MRQ-W and MRS-W, which are the same words, and MRS-X beside the three 5-byte command words. Log 3. -/
def tableChannel (bytes : List Byte) : Channel :=
  match bytes with
  | [m] => if m = 0x00 ∨ m = 0x01 ∨ m = 0x03 then .display else .host
  | [m, _] => if m = 0x25 ∨ m = 0x42 then .host else .display
  | [s, _, _, _, _] => if s = 0x11 ∨ s = 0x27 ∨ s = 0x41 then .host else .fromSensor
  | [_, _, _, _, _, _, _] => .fromSensor
  | [_, _, _, _, _, _, _, _] => .toSensor
  | _ => if bytes.length = 52 then .display else .host

/-- The bytes of a table word of `nbits` bits, operand bytes above it zero. Log 3. -/
def tableBytes (nbits w : Nat) : List Byte := padOperands (numberBytes (nbits / 8) w)

/-- The channel of a table word of `nbits` bits. -/
def tableWordChannel (nbits w : Nat) : Channel := tableChannel (numberBytes (nbits / 8) w)

/-- The instruction the decoder reads from a table word (R60's numbering: byte 0 is the most significant). -/
def decodeTableWord (nbits w : Nat) : Option Instr :=
  match decode (tableWordChannel nbits w) (tableBytes nbits w) with
  | .ok i => some i
  | .error _ => none

end Sys2Proof
end

