-- ==== Sys2Proof/Machine/State.lean ====
section
/-! DEFINITION. The state of the machine as plain data: the block's persistent state (10_state.md R20), the
environments' answers (R14, R15, R32, R33), the panel's ghost image (R34) and what a run makes observable (R216). -/

namespace Sys2Proof.Machine

/-- The block meets no trap and has no stuck state (R193, R217). The one fault is the access the spec says does not
exist. -/
inductive Fault where
  /-- An access to framebuffer space outside addresses 0 to 11999 (R41). Raised by the framebuffer access of SETPIX
  and GETPIX. Safe: the model stops. R50 says that no operation produces such an address. -/
  | framebufferAddress (a : Nat)
  deriving DecidableEq, Repr

/-- Shapes of a partial write that the block never emits (R70, R81); U12 of 93_implementation_defined.md has them
refused. -/
inductive NeverEmitted where
  /-- A line record or a trailer of no stream: no header went before it. -/
  | noHeader
  /-- A wire line address 0 or 241 to 255 (R52, R81). -/
  | lineAddress (line : Byte)
  /-- A wire line address not above the one before it: sent twice, or out of order (R70, R81, D15). -/
  | lineOrder (line : Byte)
  /-- A trailer after no line record: k = 0 (R70). -/
  | noLines
  deriving DecidableEq, Repr

inductive Refusal where
  /-- An instruction with no meaning yet, by its mnemonic. Raised by an arm of exec only. Safe. -/
  | notModelled (mnemonic : String)
  /-- A word that is no instruction: the decoder answers "invalid" and the block performs nothing (R83, R217).
  Raised by step. Safe. -/
  | invalidWord (why : DecodeError)
  /-- A word on a wire that is not traffic of a host operation under way (R209, R215; U13). Raised by step. Safe. -/
  | outsideOperation
  /-- A part of a partial write that the block never emits (R70, R81; U12). Raised by DWR.line and DWR.trailer. Safe. -/
  | neverEmitted (why : NeverEmitted)
  deriving DecidableEq, Repr

/-- The error kinds (R180). `bus e` carries the transport's own error (R190). -/
inductive ErrorKind where
  | io
  | crcMismatch
  | invalidLength
  | addressMismatch
  | functionMismatch
  | modbusException (code : Byte)
  | timeout
  | invalidBaudRate
  | invalidAddress
  | bus (e : BusError)
  deriving DecidableEq, Repr

/-- What an operation returns (R13, R86). -/
inductive OpResult where
  /-- `Ok`, with no value. -/
  | ok
  /-- `Ok(v)`, a register value. -/
  | okValue (v : Word)
  /-- `Err(k)`. -/
  | err (k : ErrorKind)
  /-- CRC16's checksum. -/
  | checksum (c : Word)
  /-- GETPIX: light, dark, or none. -/
  | pixel (c : Option Colour)
  /-- SIZE: width, then height. -/
  | panelSize (width height : Nat)
  /-- SETPIX, CLEARTO, MARKALL, DRAIN: nothing. -/
  | nothing
  deriving DecidableEq, Repr

/-- What is seen on the display bus: the select line taking a level, or a byte shifted out (R15, R216). -/
inductive BusEvent where
  | select (level : Bool)
  | byte (b : Byte)
  deriving DecidableEq, Repr

/-- A wire form that crosses a wire next, by itself (log 1). The host has no move that puts one there (R215). -/
structure Crossing where
  /-- The host operation under way whose traffic it is; none for a frame that the sensor sends. -/
  operation : Option Instr
  channel : Channel
  bytes : List Byte
  deriving DecidableEq, Repr

/-- A line record of a partial write: wire line address and pixel bytes (R70). -/
abbrev LineRecord := Byte × List Byte

/-- A partial write's stream while it is put together from its parts: the header's polarity and the records so far
(R70, R163; log 11). Nothing of it is on the bus yet. -/
structure PartialWrite where
  polarity : Bool
  records : List LineRecord
  deriving DecidableEq, Repr

/-- Framebuffer memory (R41): the bytes that differ from 0x00, addresses strictly rising (log 5). -/
abbrev Memory := List Host.Cell

/-- The panel's ghost image (R34, D30): per line, its 50 bytes or unknown. -/
abbrev Panel := Vector (Option (List Byte)) 240

/-- The machine. The first five fields are all the state the block holds (R20). -/
structure State where
  /-- DEVADDR (R21). -/
  devAddr : Byte
  /-- P, the polarity bit (R22). -/
  p : Bool
  /-- SCS, the level on the select line (R23). -/
  scs : Bool
  /-- FB, the framebuffer (R24). -/
  fb : Memory
  /-- DIRTY, one bit a line, bit y for line y (R25, R43). -/
  dirty : BitVec 240
  /-- PANEL, the ghost image (R34). -/
  panel : Panel
  /-- The partial write being put together part by part by wire forms (log 11). -/
  openWrite : Option PartialWrite
  /-- The command words of the operations that the host will call, the next one first (R72, R216; log 2). -/
  hostCalls : List (List Byte)
  /-- Wire forms that cross by themselves before the next call, the next one first (logs 1 and 2). -/
  crossings : List Crossing
  /-- What the serial transport has ready for reads, the first first (R32, R33; log 7). -/
  serialRx : List RxEvent
  /-- The serial transport's next answers to writes, as far as they are settled (R14; log 8). -/
  serWriteScript : List SerWriteAnswer
  /-- The bus's next answers to writes, as far as they are settled (R15; log 9). -/
  busScript : List BusAnswer
  /-- How many free values have been drawn for the serial transport (log 27). -/
  serDraws : Nat
  /-- How many free values have been drawn for the display bus (log 27). -/
  busDraws : Nat
  /-- Results of operations, in order (R216). -/
  results : List OpResult
  /-- Bytes written to the serial transport, in order (R216). -/
  serialOut : List Byte
  /-- Select levels and bytes on the display bus, in order (R216). -/
  busOut : List BusEvent
  /-- Lines given to Log, in order, each without its newline (R16, R216). -/
  logOut : List (List Byte)
  deriving DecidableEq, Repr

/-- What an unlisted framebuffer address reads as (log 5: the representation's zero; reset lists FB_INIT). -/
def unlistedByte : Byte := 0x00

/-- The framebuffer holding `f a` at each address a of framebuffer space. -/
@[irreducible] def memoryOf (f : Nat → Byte) : Memory :=
  (List.range Config.fbBytes).filterMap fun a => if f a = unlistedByte then none else some (a, f a)

/-- The fresh state (R36, R200). Creation does no I/O. -/
def State.reset : State where
  devAddr := Config.devAddrInit
  p := false
  scs := false
  fb := memoryOf Config.fbInit
  dirty := 0#240
  panel := Vector.replicate 240 none
  openWrite := none
  hostCalls := []
  crossings := []
  serialRx := Config.serialRxInit
  serWriteScript := []
  busScript := []
  serDraws := 0
  busDraws := 0
  results := []
  serialOut := []
  busOut := []
  logOut := []

end Sys2Proof.Machine
end

