-- ==== Sys2Proof/Machine/Flags.lean ====
section
/-! DEFINITION. The block's status bits: the dirty bitmap and the polarity bit (10_state.md R29; their writers are
43_framebuffer.md R146 and 44_display_engine.md R166). -/

namespace Sys2Proof.Machine

/-- `DIRTY[y]` (R12, R43). -/
def dirtyBit (d : BitVec 240) (y : Nat) : Bool := d.getLsbD y

/-- `DIRTY[y] <- 1`. -/
def markLine (d : BitVec 240) (y : Nat) : BitVec 240 := d ||| BitVec.twoPow 240 y

/-- Every dirty bit 1 (R144, R145). -/
def allDirty : BitVec 240 := BitVec.allOnes 240

/-- Every dirty bit 0 (R161, R163). -/
def noneDirty : BitVec 240 := 0#240

/-- The dirty lines in ascending order (R163, R164, D15). -/
def dirtyLines (d : BitVec 240) : List Nat := (List.range Config.height).filter (dirtyBit d)

/-- `P <- 1 - P` (R161 to R163). -/
def flipPolarity (p : Bool) : Bool := !p

end Sys2Proof.Machine
end

