-- ==== Sys2Proof/Machine/Operands.lean ====
section
/-! DEFINITION. Operand forms: pixel coordinates and the pixel map (20_memory.md R42, R58), colours (R143), device
addresses (R127), baud rates (R130), line addresses (R76). -/

namespace Sys2Proof.Machine

/-- An `i16` coordinate (R73, R88). -/
def coordinate (v : Word) : Int := v.toInt

/-- The bounds check `0 <= x < 400 and 0 <= y < 240` of R141 and R142. -/
def inGrid (x y : Word) : Bool :=
  decide (0 ≤ coordinate x ∧ coordinate x < Config.width ∧ 0 ≤ coordinate y ∧ coordinate y < Config.height)

/-- An in-range coordinate as a number (R78). -/
def pixelIndex (v : Word) : Nat := (coordinate v).toNat

/-- `byte_addr(x, y) = 50*y + (x div 8)` (R42). -/
def byteAddr (x y : Nat) : Nat := Config.lineBytes * y + x / 8

/-- `bit_index(x) = x mod 8` (R42). -/
def bitIndex (x : Nat) : Nat := x % 8

/-- The byte with bit k set to the colour, the other seven bits as they were (R141). -/
def paintBit (old : Byte) (k : Nat) (c : Colour) : Byte :=
  match c with
  | .light => old ||| (1#8 <<< k)
  | .dark => old &&& ~~~(1#8 <<< k)

/-- The byte CLEARTO fills with (R144). -/
def fillByte (c : Colour) : Byte := if colourBit c then 0xFF else 0x00

/-- `zext_16(a)` (R78, R128). -/
def zext16 (a : Byte) : Word := a.setWidth 16

/-- The legal device addresses of R127. -/
def legalDeviceAddress (a : Byte) : Bool := decide (Config.addrMin ≤ a ∧ a ≤ Config.addrMax)

/-- The rates SETBAUD accepts (R130). -/
def acceptedBaud (baud : BitVec 32) : Bool := Config.baudSet.contains baud.toNat

/-- `baud / 100` as a register value (R58, R78, R130). -/
def baudCode (baud : BitVec 32) : Word := BitVec.ofNat 16 (baud.toNat / 100)

/-- The wire line address of buffer line y, `y + 1` (R52, R76). -/
def wireLine (y : Nat) : Byte := BitVec.ofNat 8 (y + Config.lineBase)

/-- The wire line addresses the block uses, 1 to 240 (R52, R81). -/
def legalWireLine (l : Byte) : Bool := decide (1 ≤ l.toNat ∧ l.toNat ≤ Config.height)

/-- The buffer line of a wire line address (R52). -/
def bufferLine (l : Byte) : Nat := l.toNat - Config.lineBase

end Sys2Proof.Machine
end

