-- ==== Sys2Proof/Machine/Ops.lean ====
section
/-! DEFINITION. The named operations over framebuffer memory and the block's registers, the ending of an operation
with a result or an error (60_exceptions.md R193). -/

namespace Sys2Proof.Machine

/-! ## Framebuffer memory (20_memory.md R41) -/

/-- `FB[a]` (R12): the listed byte, else the unlisted one. -/
def Memory.read (m : Memory) (a : Nat) : Byte :=
  match m with
  | [] => unlistedByte
  | c :: rest => if c.1 = a then c.2 else Memory.read rest a

/-- A cell put at its place in a rising list. -/
def insertCell (a : Nat) (v : Byte) : Memory → Memory
  | [] => [(a, v)]
  | c :: rest => if c.1 < a then c :: insertCell a v rest else (a, v) :: c :: rest

/-- The memory with nothing listed at `a`. -/
def Memory.erase (m : Memory) (a : Nat) : Memory := m.filter fun c => decide (c.1 ≠ a)

/-- `FB[a] <- v` (R12), kept canonical. -/
def Memory.write (m : Memory) (a : Nat) (v : Byte) : Memory :=
  if v = unlistedByte then Memory.erase m a else insertCell a v (Memory.erase m a)

/-- `for i in 0 .. 12000: FB[i] <- v` (R144). -/
def Memory.fill (v : Byte) : Memory := memoryOf fun _ => v

/-- The canonical form: addresses strictly rising and inside framebuffer space, no entry equal to the unlisted byte. -/
def Memory.wf (m : Memory) : Bool :=
  decide (m.Pairwise fun c d => c.1 < d.1) &&
    m.all fun c => decide (c.1 < Config.fbBytes) && decide (c.2 ≠ unlistedByte)

/-- A read of framebuffer space, or nothing where the spec says there is no such address (R41, R50). -/
def fbLoad (m : Memory) (a : Nat) : Option Byte := if a < Config.fbBytes then some (Memory.read m a) else none

/-- `FB[50*y .. 50*y + 50)`: the packed bytes of line y (R41, R164). -/
def fbLine (m : Memory) (y : Nat) : List Byte :=
  (List.range Config.lineBytes).map fun k => Memory.read m (Config.lineBytes * y + k)

/-! ## Ending an operation -/

/-- Returning a result to the host (R13). -/
def State.finish (s : State) (r : OpResult) : State := { s with results := s.results ++ [r] }

/-- Taking an error (R193): the result is `Err(k)`, nothing else of the state changes, and control goes back to the
host. There is no return from it (R194). -/
def State.raise (s : State) (k : ErrorKind) : State := s.finish (.err k)

/-- The numbers R180 gives the error kinds, for tabulation only (D4; log 28). -/
def errorNumber : ErrorKind → Nat
  | .io => 1
  | .crcMismatch => 2
  | .invalidLength => 3
  | .addressMismatch => 4
  | .functionMismatch => 5
  | .modbusException _ => 6
  | .timeout => 7
  | .invalidBaudRate => 8
  | .invalidAddress => 9
  | .bus _ => 10

/-! ## Writes of the block's registers -/

/-- `DEVADDR <- a` (R21, R128). -/
def State.setDevAddr (s : State) (a : Byte) : State := { s with devAddr := a }

/-- `P <- 1 - P` (R161 to R163). -/
def State.togglePolarity (s : State) : State := { s with p := flipPolarity s.p }

/-- A write of the whole dirty bitmap. -/
def State.setDirty (s : State) (d : BitVec 240) : State := { s with dirty := d }

/-- A write of the framebuffer. -/
def State.setFb (s : State) (m : Memory) : State := { s with fb := m }

/-- A change of the ghost image (R34). -/
def State.setPanel (s : State) (pan : Panel) : State := { s with panel := pan }

/-- A change of the part-wise partial write (log 11). -/
def State.setOpenWrite (s : State) (w : Option PartialWrite) : State := { s with openWrite := w }

/-- What the serial transport still has for the block (R32). -/
def State.setSerialRx (s : State) (q : List RxEvent) : State := { s with serialRx := q }

/-- `Log(t)` for each line (R16). -/
def State.logLines (s : State) (lines : List (List Byte)) : State := { s with logOut := s.logOut ++ lines }

end Sys2Proof.Machine
end

