-- ==== Sys2Proof/Machine/Crc.lean ====
section
/-! DEFINITION. U1, the CRC-16 evaluator (40_crc16.md). -/

namespace Sys2Proof.Machine

/-- One inner iteration (R91): the test of bit 0 is made before the shift. -/
def crcShift (acc : Word) : Word :=
  if acc.getLsbD 0 then (acc >>> 1) ^^^ Config.crcPoly else acc >>> 1

/-- `n` inner iterations. -/
def crcShifts : Nat → Word → Word
  | 0, acc => acc
  | n + 1, acc => crcShifts n (crcShift acc)

/-- The byte step `crc_step(acc, b)` (R91). -/
def crcStep (acc : Word) (b : Byte) : Word := crcShifts 8 (acc ^^^ zext16 b)

/-- `CRC16(s)` (R92). -/
def crc16 (bytes : List Byte) : Word := bytes.foldl crcStep Config.crcSeed

/-- A frame sealed with its checksum, low byte first (R74, R93). -/
def sealFrame (body : List Byte) : List Byte := body ++ crcField (crc16 body)

/-- CRC16 (R92): the checksum is returned; no state is written and no error exists. -/
def execCrc16 (data : List Byte) (s : State) : Host.Outcome State Fault Refusal :=
  .next (s.finish (.checksum (crc16 data)))

end Sys2Proof.Machine
end

