-- ==== Sys2Proof/Machine/Bus.lean ====
section
/-! DEFINITION. The display bus's primitives (00_scope.md R15), TRANSACT (44_display_engine.md R160), the display
command streams (30_encoding.md R67 to R70) and the panel's ghost image (10_state.md R34, D30). -/

namespace Sys2Proof.Machine

/-! ## Primitives (R15) -/

/-- `CsSet(b)`: drives the select line and records the level; no event where the line is at that level already
(R213). It does not fail (D17). -/
def State.csSet (s : State) (b : Bool) : State :=
  if s.scs = b then s else { s with scs := b, busOut := s.busOut ++ [.select b] }

/-- The bus's answer to the next `BusWrite`: the settled one, else a free value (R15, R217; log 9). -/
def nextBusAnswer (s : State) : BusAnswer :=
  match s.busScript with
  | [] => Config.busAnswer s.busDraws
  | a :: _ => a

/-- One answer of the bus taken: from the settled ones, else a draw. -/
def State.busAnswered (s : State) : State :=
  { s with busScript := s.busScript.tail, busDraws := if s.busScript = [] then s.busDraws + 1 else s.busDraws }

/-- Bytes shifted out on the display bus (R216). -/
def State.shiftOut (s : State) (bytes : List Byte) : State := { s with busOut := s.busOut ++ bytes.map .byte }

/-- `BusWrite(bytes)`: on failure a prefix, as long as the answer says, has been shifted out (R15, D18). -/
def busWrite (bytes : List Byte) (s : State) : BusAnswer × State :=
  match nextBusAnswer s with
  | .ok => (.ok, s.busAnswered.shiftOut bytes)
  | .fail e n => (.fail e n, s.busAnswered.shiftOut (bytes.take n))

/-- `SCS <- unspecified (0 or 1)` after a failure (R160): a free value, one for each failure (log 6). -/
def State.selectUnspecified (s : State) : State :=
  { s.csSet (Config.selectAfterFailure s.busDraws) with busDraws := s.busDraws + 1 }

/-- The bits of a byte in the order they are shifted out, least significant first (R48, D16; log 16). -/
def wireBits (b : Byte) : List Bool := (List.range 8).map b.getLsbD

/-! ## The ghost image (R34, D30) -/

/-- `PANEL[y]`: its bytes, or unknown. -/
def panelLine (pan : Panel) (y : Nat) : Option (List Byte) :=
  match pan[y]? with
  | some l => l
  | none => none

/-- Every line at one value. -/
def panelAll (l : Option (List Byte)) : Panel := Vector.replicate 240 l

/-- Each of the given lines at its value, in order. -/
def panelSet (pan : Panel) (lines : List (Nat × Option (List Byte))) : Panel :=
  lines.foldl (fun pan l => pan.setIfInBounds l.1 l.2) pan

/-- A line of the panel's cleared image (D19, D30). -/
def clearedLine : List Byte := List.replicate Config.lineBytes Config.panelClearByte

/-! ## TRANSACT (R160) -/

/-- `TRANSACT(bytes)`: select asserted, the bytes, select de-asserted; on failure the error, and the select line's
level unspecified. -/
def transact (bytes : List Byte) (s : State) : Option BusError × State :=
  match busWrite bytes (s.csSet true) with
  | (.ok, s') => (none, s'.csSet false)
  | (.fail e _, s') => (some e, s'.selectUnspecified)

/-! ## Command streams (R68 to R70) -/

/-- DCL's two bytes (R68). -/
def clearStream (p : Bool) : List Byte := [modeByte Config.mClear p, 0]

/-- DTG's two bytes (R69). -/
def toggleStream (p : Bool) : List Byte := [modeByte Config.mToggle p, 0]

/-- A partial write's stream: mode byte, records, trailer (R70, R163). -/
def writeStream (p : Bool) (recs : List LineRecord) : List Byte :=
  modeByte Config.mWrite p :: (recs.flatMap (fun r => lineRecord r.1 r.2) ++ [0])

/-- The record of buffer line y: its wire line address and its bytes of FB (R70, R76). -/
def fbRecord (m : Memory) (y : Nat) : LineRecord := (wireLine y, fbLine m y)

/-! ## The three transactions and what they leave on the panel (R161 to R163, D30) -/

/-- The hardware-clear transaction (R68, R161): the cleared image everywhere, or nothing known. -/
def clearTransaction (p : Bool) (s : State) : Option BusError × State :=
  match transact (clearStream p) s with
  | (none, s') => (none, s'.setPanel (panelAll (some clearedLine)))
  | (some e, s') => (some e, s'.setPanel (panelAll none))

/-- The toggle-only transaction (R69, R162): the panel's image stays. -/
def toggleTransaction (p : Bool) (s : State) : Option BusError × State := transact (toggleStream p) s

/-- The partial-write transaction (R70, R163): the lines of its records, or those lines unknown. -/
def writeTransaction (p : Bool) (recs : List LineRecord) (s : State) : Option BusError × State :=
  match transact (writeStream p recs) s with
  | (none, s') => (none, s'.setPanel (panelSet s'.panel (recs.map fun r => (bufferLine r.1, some r.2))))
  | (some e, s') => (some e, s'.setPanel (panelSet s'.panel (recs.map fun r => (bufferLine r.1, none))))

end Sys2Proof.Machine
end

