-- ==== Sys2Proof/Machine/Display.lean ====
section
/-! DEFINITION. U5, the display-command sequencer and its polarity state machine (44_display_engine.md). -/

namespace Sys2Proof.Machine

/-- The end of HWCLEAR and of a FLUSH that wrote lines: on success every dirty bit is cleared and P inverted; on
failure neither (R161, R163, R165). -/
def commitClean (r : Option BusError × State) : State :=
  match r with
  | (none, s) => ((s.setDirty noneDirty).togglePolarity).finish .ok
  | (some e, s) => s.raise (.bus e)

/-- The end of TOGGLE: on success P is inverted (R162, R165). -/
def commitToggle (r : Option BusError × State) : State :=
  match r with
  | (none, s) => s.togglePolarity.finish .ok
  | (some e, s) => s.raise (.bus e)

/-- HWCLEAR (R161). FB is not touched (D19). -/
def execHwclear (s : State) : Host.Outcome State Fault Refusal :=
  .next (commitClean (clearTransaction s.p s))

/-- TOGGLE (R162). -/
def execToggle (s : State) : Host.Outcome State Fault Refusal :=
  .next (commitToggle (toggleTransaction s.p s))

/-- FLUSH (R163): with no line dirty it is exactly TOGGLE, else a partial write of the dirty lines, ascending. -/
def execFlush (s : State) : Host.Outcome State Fault Refusal :=
  .next (if s.dirty = noneDirty then commitToggle (toggleTransaction s.p s)
    else commitClean (writeTransaction s.p ((dirtyLines s.dirty).map (fbRecord s.fb)) s))

end Sys2Proof.Machine
end

