-- ==== Sys2Proof/Machine/Serial.lean ====
section
/-! DEFINITION. The serial transport's primitives (00_scope.md R14) and the Modbus client's shared operations:
READEXACT, EXCHANGE, VALIDATE and the two register accesses (41_modbus_client.md). -/

namespace Sys2Proof.Machine

/-! ## Primitives (R14) -/

/-- The transport's answer to the next `SerWrite`: the settled one, else a free value (R14, R217; log 8). -/
def nextSerAnswer (s : State) : SerWriteAnswer :=
  match s.serWriteScript with
  | [] => Config.serWriteAnswer s.serDraws
  | a :: _ => a

/-- One answer of the transport taken: from the settled ones, else a draw. -/
def State.serAnswered (s : State) : State :=
  { s with serWriteScript := s.serWriteScript.tail,
           serDraws := if s.serWriteScript = [] then s.serDraws + 1 else s.serDraws }

/-- Bytes handed to the serial transport (R216). -/
def State.sendSerial (s : State) (bytes : List Byte) : State := { s with serialOut := s.serialOut ++ bytes }

/-- `SerWrite(tx)`: on failure a prefix of `tx`, as long as the answer says, has been sent (R14, D9). -/
def serWrite (tx : List Byte) (s : State) : SerWriteAnswer × State :=
  match nextSerAnswer s with
  | .ok => (.ok, s.serAnswered.sendSerial tx)
  | .fail n => (.fail n, s.serAnswered.sendSerial (tx.take n))

/-- `SerRead(n)` on a queue of what the transport supplies: at most n bytes of the first chunk, the rest of it staying
first; at its end the transport is silent, a zero-length read (R14, R32, R51; log 7). -/
def serRead (n : Nat) (q : List RxEvent) : RxEvent × List RxEvent :=
  match q with
  | [] => (.data [], [])
  | .fail :: rest => (.fail, rest)
  | .data bytes :: rest =>
    if bytes.length ≤ n then (.data bytes, rest)
    else (.data (bytes.take n), .data (bytes.drop n) :: rest)

/-- How many received bytes the queue holds. -/
def waitingBytes : List RxEvent → Nat
  | [] => 0
  | .fail :: rest => waitingBytes rest
  | .data bytes :: rest => bytes.length + waitingBytes rest

/-- Every event of the queue is a chunk of at least one byte: it ends neither a READEXACT nor a DRAIN (R101, R133). -/
def noStop (q : List RxEvent) : Bool := q.all fun e => decide (e ≠ .fail ∧ e ≠ .data [])

/-- The transport supplies more, where what is settled ends before the reads do: a free list of events, up to where
it falls silent (R33, R217; log 7). -/
def State.supplyMore (s : State) (runsDry : Bool) : State :=
  if runsDry then { s with serialRx := s.serialRx ++ Config.serSupply s.serDraws, serDraws := s.serDraws + 1 } else s

/-! ## READEXACT and EXCHANGE (R101, R102) -/

/-- READEXACT's loop: `missing` bytes are still wanted. Each round takes at least one byte, so `missing` rounds of
fuel are enough; the answer at fuel 0 is never reached from `readExact`. -/
def readLoop (fuel missing : Nat) (rx : List Byte) (q : List RxEvent) :
    Except ErrorKind (List Byte) × List RxEvent :=
  if missing = 0 then (.ok rx, q)
  else
    match fuel with
    | 0 => (.error .timeout, q)
    | fuel + 1 =>
      match serRead missing q with
      | (.fail, q') => (.error .io, q')
      | (.data [], q') => (.error .timeout, q')
      | (.data (b :: bytes), q') =>
        readLoop fuel (missing - (b :: bytes).length) (rx ++ b :: bytes) q'

/-- `READEXACT(n)` on a queue of what the transport supplies (R101). -/
def readExact (n : Nat) (q : List RxEvent) : Except ErrorKind (List Byte) × List RxEvent :=
  readLoop n n [] q

/-- The settled events end before n bytes and before any stop. -/
def fallsShort (n : Nat) (q : List RxEvent) : Bool := noStop q && decide (waitingBytes q < n)

/-- `READEXACT(n)` from the transport (R101). -/
def receiveExact (n : Nat) (s : State) : Except ErrorKind (List Byte) × State :=
  match readExact n (s.supplyMore (fallsShort n s.serialRx)).serialRx with
  | (r, q) => (r, (s.supplyMore (fallsShort n s.serialRx)).setSerialRx q)

/-- `EXCHANGE(tx, n)` (R102): the whole request is offered, then n bytes are read; a failed write reads nothing. -/
def exchange (tx : List Byte) (n : Nat) (s : State) : Except ErrorKind (List Byte) × State :=
  match serWrite tx s with
  | (.fail _, s') => (.error .io, s')
  | (.ok, s') => receiveExact n s'

/-! ## VALIDATE (R103) -/

/-- `VALIDATE(rx, n, fn)` against the device address: the first check that fails, in the order of R103, or none.
Step 5 exists for a read only. -/
def validate (devAddr : Byte) (rx : List Byte) (n : Nat) (fn : Byte) : Option ErrorKind :=
  if crc16 (rx.take (n - 2)) ≠ le16 (rx.getD (n - 2) 0) (rx.getD (n - 1) 0) then some .crcMismatch
  else if rx.getD 1 0 &&& Config.excBit ≠ 0 then some (.modbusException (rx.getD 2 0))
  else if rx.getD 0 0 ≠ devAddr then some .addressMismatch
  else if rx.getD 1 0 ≠ fn then some .functionMismatch
  else if fn = Config.fnRead ∧ rx.getD 2 0 ≠ Config.readByteCount then some .invalidLength
  else none

/-! ## The two register accesses (R104, R105) -/

/-- `RDHR(reg)` as a sub-operation (R104): the value or the error, and the state after the transport I/O. -/
def modbusRead (reg : Word) (s : State) : Except ErrorKind Word × State :=
  match exchange (sealFrame (readRequestBody s.devAddr reg)) Config.readRspLen s with
  | (.error k, s') => (.error k, s')
  | (.ok rx, s') =>
    match validate s.devAddr rx Config.readRspLen Config.fnRead with
    | some k => (.error k, s')
    | none => (.ok (be16 (rx.getD 3 0) (rx.getD 4 0)), s')

/-- `WRSR(reg, val)` as a sub-operation (R105): no error or the error, and the state after the transport I/O. -/
def modbusWrite (reg val : Word) (s : State) : Option ErrorKind × State :=
  match exchange (sealFrame (writeRequestBody s.devAddr reg val)) Config.writeRspLen s with
  | (.error k, s') => (some k, s')
  | (.ok rx, s') => (validate s.devAddr rx Config.writeRspLen Config.fnWrite, s')

/-- A read operation's end: `Ok(v)` or the error. -/
def finishRead (r : Except ErrorKind Word × State) : State :=
  match r with
  | (.ok v, s) => s.finish (.okValue v)
  | (.error k, s) => s.raise k

/-- A write operation's end: `Ok` or the error. -/
def finishWrite (r : Option ErrorKind × State) : State :=
  match r with
  | (none, s) => s.finish .ok
  | (some k, s) => s.raise k

/-! ## The drain's loop (R133) -/

/-- The printable bytes (R133, D25). -/
def printable (b : Byte) : Bool := decide (0x20#8 ≤ b ∧ b ≤ 0x7E#8)

/-- DRAIN's loop (R133): the lines logged and the queue left. Each round but the last takes one byte, so one round
more than the waiting bytes is enough fuel; the answer at fuel 0 is never reached from `drainAll`. -/
def drainLoop (fuel : Nat) (line : List Byte) (lines : List (List Byte)) (q : List RxEvent) :
    List (List Byte) × List RxEvent :=
  match fuel with
  | 0 => (lines, q)
  | fuel + 1 =>
    match serRead 1 q with
    | (.data (b :: _), q') =>
      if b = 0x0A then drainLoop fuel [] (lines ++ [line]) q'
      else if printable b then drainLoop fuel (line ++ [b]) lines q'
      else drainLoop fuel line lines q'
    | (_, q') => (lines ++ (if line ≠ [] ∧ Config.drainEmitPartial = true then [line] else []), q')

/-- The whole drain of a queue (R133). -/
def drainAll (q : List RxEvent) : List (List Byte) × List RxEvent := drainLoop (waitingBytes q + 1) [] [] q

/-- The drain of the transport: what is waiting, and where nothing in it ends the drain, what comes before the
transport falls silent (R133, R217). -/
def drainTransport (s : State) : State :=
  match drainAll (s.supplyMore (noStop s.serialRx)).serialRx with
  | (lines, q) => ((s.supplyMore (noStop s.serialRx)).setSerialRx q).logLines lines

end Sys2Proof.Machine
end

