-- ==== Sys2Proof/Machine/Facade.lean ====
section
/-! DEFINITION. U3, the liquid-level sensor facade (42_sensor_facade.md): accessors of fixed registers, the two
checked setters, and the drain. Getters return the raw register value (R121). -/

namespace Sys2Proof.Machine

/-- GETEMPTY (R122). -/
def execGetempty (s : State) : Host.Outcome State Fault Refusal :=
  .next (finishRead (modbusRead Config.regEmptyHeight s))

/-- GETLEVEL (R123). -/
def execGetlevel (s : State) : Host.Outcome State Fault Refusal :=
  .next (finishRead (modbusRead Config.regWaterLevel s))

/-- GETINST (R124). -/
def execGetinst (s : State) : Host.Outcome State Fault Refusal :=
  .next (finishRead (modbusRead Config.regInstallHeight s))

/-- SETINST (R125): every value is sent. -/
def execSetinst (val : Word) (s : State) : Host.Outcome State Fault Refusal :=
  .next (finishWrite (modbusWrite Config.regInstallHeight val s))

/-- GETADDR (R126): DEVADDR is not updated from the value read (D32). -/
def execGetaddr (s : State) : Host.Outcome State Fault Refusal :=
  .next (finishRead (modbusRead Config.regDeviceAddress s))

/-- SETADDR's end (R128): DEVADDR takes the new address only after `Ok`. -/
def finishSetaddr (a : Byte) (r : Option ErrorKind × State) : State :=
  match r with
  | (none, s) => (s.setDevAddr a).finish .ok
  | (some k, s) => s.raise k

/-- SETADDR (R127, R128): the check comes before any transport I/O; the exchange uses the old DEVADDR. -/
def execSetaddr (a : Byte) (s : State) : Host.Outcome State Fault Refusal :=
  if legalDeviceAddress a then .next (finishSetaddr a (modbusWrite Config.regDeviceAddress (zext16 a) s))
  else .next (s.raise .invalidAddress)

/-- GETBAUD (R129): baud divided by 100, not multiplied back. -/
def execGetbaud (s : State) : Host.Outcome State Fault Refusal :=
  .next (finishRead (modbusRead Config.regBaudCode s))

/-- SETBAUD (R130): the check comes before any transport I/O; the block's own transport keeps its rate. -/
def execSetbaud (baud : BitVec 32) (s : State) : Host.Outcome State Fault Refusal :=
  if acceptedBaud baud then .next (finishWrite (modbusWrite Config.regBaudCode (baudCode baud) s))
  else .next (s.raise .invalidBaudRate)

/-- GETRANGE (R131). -/
def execGetrange (s : State) : Host.Outcome State Fault Refusal :=
  .next (finishRead (modbusRead Config.regRange s))

/-- SETRANGE (R132): every value is sent. -/
def execSetrange (val : Word) (s : State) : Host.Outcome State Fault Refusal :=
  .next (finishWrite (modbusWrite Config.regRange val s))

/-- DRAIN (R133): it cannot fail; it consumes what it reads and logs completed lines. -/
def execDrain (s : State) : Host.Outcome State Fault Refusal :=
  .next ((drainTransport s).finish .nothing)

end Sys2Proof.Machine
end

