-- ==== Sys2Proof/Machine/Framebuffer.lean ====
section
/-! DEFINITION. U4, the packed framebuffer and the dirty bitmap (43_framebuffer.md). No operation here touches a
transport and none returns an error (R140). -/

namespace Sys2Proof.Machine

/-- The read-modify-write of SETPIX (R141): where the byte changes it is stored and line y is marked. -/
def State.paint (s : State) (a : Nat) (y : Nat) (old new : Byte) : State :=
  if new = old then s else (s.setFb (Memory.write s.fb a new)).setDirty (markLine s.dirty y)

/-- SETPIX (R141): a silent no-op outside the grid. -/
def execSetpix (x y : Word) (c : Colour) (s : State) : Host.Outcome State Fault Refusal :=
  if inGrid x y then
    match fbLoad s.fb (byteAddr (pixelIndex x) (pixelIndex y)) with
    | none => .fault (.framebufferAddress (byteAddr (pixelIndex x) (pixelIndex y)))
    | some old =>
      .next ((s.paint (byteAddr (pixelIndex x) (pixelIndex y)) (pixelIndex y) old
        (paintBit old (bitIndex (pixelIndex x)) c)).finish .nothing)
  else .next (s.finish .nothing)

/-- GETPIX (R142): the pixel's colour, none outside the grid. -/
def execGetpix (x y : Word) (s : State) : Host.Outcome State Fault Refusal :=
  if inGrid x y then
    match fbLoad s.fb (byteAddr (pixelIndex x) (pixelIndex y)) with
    | none => .fault (.framebufferAddress (byteAddr (pixelIndex x) (pixelIndex y)))
    | some b => .next (s.finish (.pixel (some (colourOf (b.getLsbD (bitIndex (pixelIndex x)))))))
  else .next (s.finish (.pixel none))

/-- CLEARTO (R144): fills FB; marks every line where asked, else leaves the dirty bitmap as it is. -/
def execClearto (c : Colour) (mark : Bool) (s : State) : Host.Outcome State Fault Refusal :=
  .next (((s.setFb (Memory.fill (fillByte c))).setDirty (if mark then allDirty else s.dirty)).finish .nothing)

/-- MARKALL (R145). -/
def execMarkall (s : State) : Host.Outcome State Fault Refusal :=
  .next ((s.setDirty allDirty).finish .nothing)

/-- SIZE (R148): width first. -/
def execSize (s : State) : Host.Outcome State Fault Refusal :=
  .next (s.finish (.panelSize Config.width Config.height))

end Sys2Proof.Machine
end

