-- ==== Sys2Proof/Machine/Modbus.lean ====
section
/-! DEFINITION. U2, the Modbus register client (41_modbus_client.md): RDHR and WRSR. -/

namespace Sys2Proof.Machine

/-- RDHR (R104). -/
def execRdhr (reg : Word) (s : State) : Host.Outcome State Fault Refusal :=
  .next (finishRead (modbusRead reg s))

/-- WRSR (R105). The register map is not consulted (R31). -/
def execWrsr (reg val : Word) (s : State) : Host.Outcome State Fault Refusal :=
  .next (finishWrite (modbusWrite reg val s))

end Sys2Proof.Machine
end

