-- ==== Sys2Proof/Machine/WireForms.lean ====
section
/-! DEFINITION. The ten wire forms (30_encoding.md R62 to R70), each as the step in which that form alone crosses its
wire (log 1): a frame to the sensor is one SerWrite, a frame from the sensor joins what the transport holds, a display
transaction is one TRANSACT. The parts of a partial write put its stream together and the trailer sends it in one
TRANSACT, as R163 does; a shape that the block never emits (R70, R81) is refused (U12). No wire form writes DEVADDR, P,
FB or DIRTY (R20, R146, R166). -/

namespace Sys2Proof.Machine

/-- The end of a lone SerWrite: `Ok`, or `Io` (R102, R181). -/
def finishSerWrite (r : SerWriteAnswer × State) : State :=
  match r with
  | (.ok, s) => s.finish .ok
  | (.fail _, s) => s.raise .io

/-- Bytes the sensor sent and no operation has read yet (R32): they come after those already waiting (R55). -/
def State.receive (s : State) (bytes : List Byte) : State := s.setSerialRx (s.serialRx ++ [.data bytes])

/-- MRQ-R (R62). -/
def execMrqR (addr : Byte) (reg crc : Word) (s : State) : Host.Outcome State Fault Refusal :=
  .next (finishSerWrite (serWrite (readRequestBody addr reg ++ crcField crc) s))

/-- MRS-R (R63). -/
def execMrsR (addr : Byte) (val crc : Word) (s : State) : Host.Outcome State Fault Refusal :=
  .next (s.receive (readResponseBody addr val ++ crcField crc))

/-- MRQ-W (R64). -/
def execMrqW (addr : Byte) (reg val crc : Word) (s : State) : Host.Outcome State Fault Refusal :=
  .next (finishSerWrite (serWrite (writeRequestBody addr reg val ++ crcField crc) s))

/-- MRS-W (R64). -/
def execMrsW (addr : Byte) (reg val crc : Word) (s : State) : Host.Outcome State Fault Refusal :=
  .next (s.receive (writeRequestBody addr reg val ++ crcField crc))

/-- MRS-X (R65). -/
def execMrsX (addr : Byte) (fn : BitVec 7) (code : Byte) (crc : Word) (s : State) : Host.Outcome State Fault Refusal :=
  .next (s.receive (exceptionBody addr fn code ++ crcField crc))

/-- The end of a lone display transaction: `Ok`, or `Bus(e)` (R190). -/
def finishBus (r : Option BusError × State) : State :=
  match r with
  | (none, s) => s.finish .ok
  | (some e, s) => s.raise (.bus e)

/-- DCL (R68). -/
def execDcl (p : Bool) (s : State) : Host.Outcome State Fault Refusal :=
  .next (finishBus (clearTransaction p s))

/-- DTG (R69). -/
def execDtg (p : Bool) (s : State) : Host.Outcome State Fault Refusal :=
  .next (finishBus (toggleTransaction p s))

/-- DWR.header (R70): a stream begins with the mode byte. -/
def execDwrHeader (p : Bool) (s : State) : Host.Outcome State Fault Refusal :=
  .next (s.setOpenWrite (some ⟨p, []⟩))

/-- Why a record for this wire line address cannot come next in a stream that the block emits (R70, R81). -/
def recordRefused (w : Option PartialWrite) (line : Byte) : Option NeverEmitted :=
  match w with
  | none => some .noHeader
  | some w =>
    if legalWireLine line = false then some (.lineAddress line)
    else if w.records.all (fun r => decide (r.1.toNat < line.toNat)) then none
    else some (.lineOrder line)

/-- One record more in the stream under way. -/
def appendRecord (w : Option PartialWrite) (r : LineRecord) : Option PartialWrite :=
  w.map fun w => { w with records := w.records ++ [r] }

/-- DWR.line (R70): the stream takes one record more. -/
def execDwrLine (line : Byte) (pixels : List Byte) (s : State) : Host.Outcome State Fault Refusal :=
  match recordRefused s.openWrite line with
  | some why => .refused (.neverEmitted why)
  | none => .next (s.setOpenWrite (appendRecord s.openWrite (line, pixels)))

/-- DWR.trailer (R70): the stream ends with its trailer and is sent in one transaction with select around it (R71). -/
def execDwrTrailer (s : State) : Host.Outcome State Fault Refusal :=
  match s.openWrite with
  | none => .refused (.neverEmitted .noHeader)
  | some w =>
    if w.records = [] then .refused (.neverEmitted .noLines)
    else .next (finishBus (writeTransaction w.polarity w.records (s.setOpenWrite none)))

end Sys2Proof.Machine
end

