-- ==== Sys2Proof/Machine/Dispatch.lean ====
section
/-! DEFINITION. The dispatch of instructions to their meanings. -/

namespace Sys2Proof.Machine

def exec (i : Instr) (s : State) : Host.Outcome State Fault Refusal :=
  match i with
  | .mrqR addr reg crc => Sys2Proof.Machine.execMrqR addr reg crc s
  | .mrsR addr val crc => Sys2Proof.Machine.execMrsR addr val crc s
  | .mrqW addr reg val crc => Sys2Proof.Machine.execMrqW addr reg val crc s
  | .mrsW addr reg val crc => Sys2Proof.Machine.execMrsW addr reg val crc s
  | .mrsX addr fn code crc => Sys2Proof.Machine.execMrsX addr fn code crc s
  | .dcl polarity => Sys2Proof.Machine.execDcl polarity s
  | .dtg polarity => Sys2Proof.Machine.execDtg polarity s
  | .dwrHeader polarity => Sys2Proof.Machine.execDwrHeader polarity s
  | .dwrLine line pixels => Sys2Proof.Machine.execDwrLine line pixels s
  | .dwrTrailer => Sys2Proof.Machine.execDwrTrailer s
  | .crc16 data => Sys2Proof.Machine.execCrc16 data s
  | .rdhr reg => Sys2Proof.Machine.execRdhr reg s
  | .wrsr reg val => Sys2Proof.Machine.execWrsr reg val s
  | .getempty => Sys2Proof.Machine.execGetempty s
  | .getlevel => Sys2Proof.Machine.execGetlevel s
  | .getinst => Sys2Proof.Machine.execGetinst s
  | .setinst val => Sys2Proof.Machine.execSetinst val s
  | .getaddr => Sys2Proof.Machine.execGetaddr s
  | .setaddr a => Sys2Proof.Machine.execSetaddr a s
  | .getbaud => Sys2Proof.Machine.execGetbaud s
  | .setbaud baud => Sys2Proof.Machine.execSetbaud baud s
  | .getrange => Sys2Proof.Machine.execGetrange s
  | .setrange val => Sys2Proof.Machine.execSetrange val s
  | .drain => Sys2Proof.Machine.execDrain s
  | .setpix x y c => Sys2Proof.Machine.execSetpix x y c s
  | .getpix x y => Sys2Proof.Machine.execGetpix x y s
  | .clearto c mark => Sys2Proof.Machine.execClearto c mark s
  | .markall => Sys2Proof.Machine.execMarkall s
  | .size => Sys2Proof.Machine.execSize s
  | .hwclear => Sys2Proof.Machine.execHwclear s
  | .toggle => Sys2Proof.Machine.execToggle s
  | .flush => Sys2Proof.Machine.execFlush s

end Sys2Proof.Machine
end

