-- ==== Sys2Proof/Machine/Fetch.lean ====
section
/-! DEFINITION. What is performed next: the wire forms that cross by themselves, else the host's next call
(70_reset_and_hazards.md R215, R216; logs 1 and 2). The host calls operations and nothing else (R37, R215): its words
are read as command words only, and a form that the block emits crosses only as traffic of the host operation that
emits it. -/

namespace Sys2Proof.Machine

/-! ## Which operation emits which form -/

/-- The register that a read operation asks for (R104, R122 to R131). -/
def readRegister : Instr → Option Word
  | .rdhr reg => some reg
  | .getempty => some Config.regEmptyHeight
  | .getlevel => some Config.regWaterLevel
  | .getinst => some Config.regInstallHeight
  | .getaddr => some Config.regDeviceAddress
  | .getbaud => some Config.regBaudCode
  | .getrange => some Config.regRange
  | _ => none

/-- The register that a write operation writes, and the value; none where the operand is turned away before any I/O
(R105, R125, R128, R130, R132). -/
def writtenRegister : Instr → Option (Word × Word)
  | .wrsr reg val => some (reg, val)
  | .setinst val => some (Config.regInstallHeight, val)
  | .setaddr a => if legalDeviceAddress a then some (Config.regDeviceAddress, zext16 a) else none
  | .setbaud baud => if acceptedBaud baud then some (Config.regBaudCode, baudCode baud) else none
  | .setrange val => some (Config.regRange, val)
  | _ => none

/-- The host operation `op` emits this wire form (R104, R105, R111, R134, R161 to R163, R167). -/
def emits (op form : Instr) : Bool :=
  match form with
  | .mrqR _ reg _ => decide (readRegister op = some reg)
  | .mrqW _ reg val _ => decide (writtenRegister op = some (reg, val))
  | .dcl _ => decide (op = .hwclear)
  | .dtg _ => decide (op = .toggle ∨ op = .flush)
  | .dwrHeader _ => decide (op = .flush)
  | .dwrLine _ _ => decide (op = .flush)
  | .dwrTrailer => decide (op = .flush)
  | _ => false

/-- A form may cross: the sensor sends it (R33), or it is traffic of the host operation under way (R209, R215). -/
def mayCross (operation : Option Instr) (form : Instr) : Bool :=
  match channelOf form with
  | .host => false
  | .fromSensor => true
  | .toSensor => operation.any fun op => emits op form
  | .display => operation.any fun op => emits op form

/-- The operation whose traffic a form is taken to be where none is named: the plain one that emits it. -/
def operationOf : Instr → Option Instr
  | .mrqR _ reg _ => some (.rdhr reg)
  | .mrqW _ reg val _ => some (.wrsr reg val)
  | .dcl _ => some .hwclear
  | .dtg _ => some .toggle
  | .dwrHeader _ => some .flush
  | .dwrLine _ _ => some .flush
  | .dwrTrailer => some .flush
  | _ => none

/-! ## Fetching -/

/-- The instruction of a crossing, or why it is refused. -/
def crossingInstr (c : Crossing) : Except Refusal Instr :=
  match decode c.channel c.bytes with
  | .error e => .error (.invalidWord e)
  | .ok i => if mayCross c.operation i then .ok i else .error .outsideOperation

/-- The operation of a call, or why its word is refused (R83, R217). -/
def callInstr (bytes : List Byte) : Except Refusal Instr :=
  match decode .host bytes with
  | .error e => .error (.invalidWord e)
  | .ok i => .ok i

/-- What is performed next and the state without it; nothing where the host calls nothing (R28, R202). -/
def fetch (s : State) : Option (Except Refusal Instr × State) :=
  match s.crossings with
  | c :: rest => some (crossingInstr c, { s with crossings := rest })
  | [] =>
    match s.hostCalls with
    | w :: rest => some (callInstr w, { s with hostCalls := rest })
    | [] => none

/-! ## A word of the opcode table as the next one performed (log 2) -/

/-- The stream under way that a part of a partial write needs before it: a header for a record, a header and one
record for the trailer (log 11). -/
def streamBefore (form : Instr) (w : Option PartialWrite) : Option PartialWrite :=
  match form with
  | .dwrLine _ _ => some ⟨false, []⟩
  | .dwrTrailer => some ⟨false, [(wireLine 0, List.replicate Config.lineBytes 0)]⟩
  | _ => w

/-- The word as the host's next call. -/
def State.callNext (s : State) (bytes : List Byte) : State :=
  { s with hostCalls := bytes :: s.hostCalls, crossings := [] }

/-- The word as the next form that crosses, in the operation that emits it. -/
def State.crossNext (s : State) (ch : Channel) (bytes : List Byte) : State :=
  match decode ch bytes with
  | .ok form =>
    { s with crossings := ⟨operationOf form, ch, bytes⟩ :: s.crossings, openWrite := streamBefore form s.openWrite }
  | .error _ => { s with crossings := ⟨none, ch, bytes⟩ :: s.crossings }

end Sys2Proof.Machine
end

