-- ==== Sys2Proof/Machine/Step.lean ====
section
/-! DEFINITION. One step of the machine: the next operation is performed to completion (R7, R8, R28). A word that is no
instruction is refused and nothing is performed (R83, R217). Where nothing is called the block waits (R28, R202). -/

namespace Sys2Proof.Machine

def step (s : State) : Host.Outcome State Fault Refusal :=
  match fetch s with
  | none => .next s
  | some (.ok i, s') => exec i s'
  | some (.error r, _) => .refused r

/-- The word of an opcode-table row put where step takes what it performs next (log 2, log 3). -/
def State.withFetchWord (s : State) (nbits w : Nat) : State :=
  match tableWordChannel nbits w with
  | .host => s.callNext (tableBytes nbits w)
  | ch => s.crossNext ch (tableBytes nbits w)

end Sys2Proof.Machine
end

