-- ==== Sys2Proof/Safety.lean ====
section
/-! DEFINITION. The terms in which claims speak of a run: what the environments supply, the invariant of the state,
the dirty bitmap's promise (43_framebuffer.md R147), runs of instructions (70_reset_and_hazards.md R216), and frames
and texts written out as the spec writes them. -/

namespace Sys2Proof.Machine

/-! ## What the environments supply -/

/-- The serial transport supplies the bytes `rx`, in reads of at least one byte each, and `rest` after them: where the
chunk that holds the last of them is longer, its extra bytes stay first (R32, R101, R208). -/
def supplies (s : State) (rx : List Byte) (rest : List RxEvent) : Prop :=
  ∃ (chunks : List (List Byte)) (last extra : List Byte) (q : List RxEvent),
    (∀ c ∈ chunks, c ≠ []) ∧ last ≠ [] ∧ rx = chunks.flatten ++ last ∧
    s.serialRx = chunks.map RxEvent.data ++ .data (last ++ extra) :: q ∧
    rest = if extra = [] then q else .data extra :: q

/-! ## Frames as the spec writes them -/

/-- A frame's bytes and their CRC, low byte first (R61, R74). -/
def withCrc (body : List Byte) : List Byte := body ++ [lo (crc16 body), hi (crc16 body)]

/-- `addr(1) 0x03 reg_hi reg_lo 0x00 0x01 crc_lo crc_hi` (R62). -/
def readRequest (addr : Byte) (reg : Word) : List Byte := withCrc [addr, 0x03, hi reg, lo reg, 0x00, 0x01]

/-- `addr(1) 0x03 0x02 val_hi val_lo crc_lo crc_hi` (R63). -/
def readResponse (addr : Byte) (val : Word) : List Byte := withCrc [addr, 0x03, 0x02, hi val, lo val]

/-- `addr(1) 0x06 reg_hi reg_lo val_hi val_lo crc_lo crc_hi` (R64). -/
def writeRequest (addr : Byte) (reg val : Word) : List Byte :=
  withCrc [addr, 0x06, hi reg, lo reg, hi val, lo val]

/-- `addr(1) 0x83 code crc_lo crc_hi`, with any function byte (R65). -/
def exceptionResponse (addr function code : Byte) : List Byte := withCrc [addr, function, code]

/-- What a sensor operation asks over the link: the request frame it writes and how many bytes of response it reads
(R104, R105, R122 to R132); none for an operation that does no exchange. -/
def requestOf (i : Instr) (s : State) : Option (List Byte × Nat) :=
  match readRegister i with
  | some reg => some (readRequest s.devAddr reg, 7)
  | none =>
    match writtenRegister i with
    | some (reg, val) => some (writeRequest s.devAddr reg val, 8)
    | none => none

/-- DEVADDR after a write operation that returned `Ok` (R128): SETADDR's operand, else as it was. -/
def addressWritten (i : Instr) (s : State) : Byte :=
  match i with
  | .setaddr a => a
  | _ => s.devAddr

/-- The selectors of the command words of fixed length, each with the number of bytes after it (R73). -/
def fixedLengthCommands : List (Byte × Nat) :=
  [(0x10, 2), (0x11, 4), (0x20, 0), (0x21, 0), (0x22, 0), (0x23, 2), (0x24, 0), (0x25, 1), (0x26, 0), (0x27, 4),
   (0x28, 0), (0x29, 2), (0x2A, 0), (0x40, 5), (0x41, 4), (0x42, 1), (0x43, 0), (0x44, 0), (0x50, 0), (0x51, 0),
   (0x52, 0)]

/-- Every selector of R73: CRC16's, whose word has a length field of its own, and those of fixed length. -/
def hostSelectors : List Byte := 0x01 :: fixedLengthCommands.map (·.1)

/-- The line record of buffer line y: `[y + 1] ++ FB[50*y .. 50*y + 50) ++ [0x00]` (R163). -/
def dirtyRecord (m : Memory) (y : Nat) : List Byte :=
  [BitVec.ofNat 8 (y + 1)] ++ (List.range 50).map (fun k => Memory.read m (50 * y + k)) ++ [0x00]

/-- The bytes a display operation puts on the bus when nothing fails (R167); none for another instruction. -/
def displayStream (i : Instr) (s : State) : List Byte :=
  if i = .hwclear then [if s.p then 0x06 else 0x04, 0x00]
  else if i = .toggle ∨ (i = .flush ∧ ∀ y, y < 240 → dirtyBit s.dirty y = false) then [if s.p then 0x02 else 0x00, 0x00]
  else if i = .flush then
    [if s.p then 0x03 else 0x01] ++ ((List.range 240).filter (dirtyBit s.dirty)).flatMap (dirtyRecord s.fb) ++ [0x00]
  else []

/-- What the bus shows of a successful transaction (R160): select asserted, the bytes, select de-asserted. A line that
was left asserted shows no new assertion (R213). -/
def bracketed (s : State) (bytes : List Byte) : List BusEvent :=
  (if s.scs then [] else [.select true]) ++ bytes.map .byte ++ [.select false]

/-- A sequence of received text bytes as the drain reads it (R133), `line` being the printable bytes since the last
newline: the lines that a newline completed, and the unterminated last line. -/
def drainText (line : List Byte) : List Byte → List (List Byte) × List Byte
  | [] => ([], line)
  | b :: rest =>
    if b = 0x0A then (line :: (drainText [] rest).1, (drainText [] rest).2)
    else if 0x20 ≤ b.toNat ∧ b.toNat ≤ 0x7E then drainText (line ++ [b]) rest
    else drainText line rest

/-! ## The invariant -/

/-- The level on the select line after an event on the bus. -/
def levelAfter (level : Bool) : BusEvent → Bool
  | .select b => b
  | .byte _ => level

/-- The level the select line was last driven to, 0 at creation (R23, R36). -/
def lastSelect (events : List BusEvent) : Bool := events.foldl levelAfter false

/-- A stream of line records that the block can emit: wire line addresses 1 to 240, ascending, so none twice (R70,
R81). -/
def emittable (recs : List LineRecord) : Prop :=
  (∀ r ∈ recs, 1 ≤ r.1.toNat ∧ r.1.toNat ≤ 240) ∧ recs.Pairwise fun r q => r.1.toNat < q.1.toNat

/-- The framebuffer is canonical and inside its space (R41, log 5); SCS is the level last driven on the line (R15);
the records of a partial write that is being put together can all be emitted (R81, log 11). -/
structure Inv (s : State) : Prop where
  fbWf : Memory.wf s.fb = true
  selectTraced : s.scs = lastSelect s.busOut
  recordsEmittable : ∀ w, s.openWrite = some w → emittable w.records

/-- The promise of the dirty bitmap (R147): where line y of FB is not known to equal PANEL[y], line y is dirty. -/
def PanelPromise (s : State) : Prop :=
  ∀ y, y < 240 → dirtyBit s.dirty y = false → panelLine s.panel y = some (fbLine s.fb y)

/-! ## Runs (R216) -/

/-- The state after performing an instruction; the state itself where it does not answer a next state. -/
def after (i : Instr) (s : State) : State :=
  match exec i s with
  | .next t => t
  | .fault _ => s
  | .refused _ => s

/-- The state after performing instructions one after another. -/
def runInstrs (is : List Instr) (s : State) : State := is.foldl (fun s i => after i s) s

/-- The next step performs this host operation: it is the host's next call and no wire form crosses before it. -/
def callsNext (s : State) (i : Instr) : Prop :=
  s.crossings = [] ∧ ∃ word rest, s.hostCalls = word :: rest ∧ decode .host word = .ok i

/-- The three display operations (R22, R166). -/
def isDisplayOperation (i : Instr) : Bool := decide (i = .hwclear ∨ i = .toggle ∨ i = .flush)

/-- A display operation that returned `Ok`: a successful transaction (R166). -/
def isSuccessfulTransaction (i : Instr) (s : State) : Bool :=
  isDisplayOperation i && decide ((after i s).results = s.results ++ [.ok])

/-- How many instructions of a run were successful transactions. -/
def successfulTransactions : List Instr → State → Nat
  | [], _ => 0
  | i :: rest, s => (if isSuccessfulTransaction i s then 1 else 0) + successfulTransactions rest (after i s)

/-- The sensor driver's host operations and its wire forms (R2, R20). -/
def isSensorInstr (i : Instr) : Bool :=
  match i with
  | .mrqR _ _ _ => true
  | .mrsR _ _ _ => true
  | .mrqW _ _ _ _ => true
  | .mrsW _ _ _ _ => true
  | .mrsX _ _ _ _ => true
  | .crc16 _ => true
  | .rdhr _ => true
  | .wrsr _ _ => true
  | .getempty => true
  | .getlevel => true
  | .getinst => true
  | .setinst _ => true
  | .getaddr => true
  | .setaddr _ => true
  | .getbaud => true
  | .setbaud _ => true
  | .getrange => true
  | .setrange _ => true
  | .drain => true
  | .dcl _ => false
  | .dtg _ => false
  | .dwrHeader _ => false
  | .dwrLine _ _ => false
  | .dwrTrailer => false
  | .setpix _ _ _ => false
  | .getpix _ _ => false
  | .clearto _ _ => false
  | .markall => false
  | .size => false
  | .hwclear => false
  | .toggle => false
  | .flush => false

end Sys2Proof.Machine
end

