-- ==== Sys2Proof/Certificates/Slice0/Obligations.lean ====
section
/-! DEFINITION. The statements for the provers. -/

open Sys2Proof Sys2Proof.Machine

/-! ## Encodings -/

/-- Decoding the encoding of a well-formed instruction, on its own channel, gives it back (30_encoding.md R60 to R73).
Reading a word by its channel is the model's choice (log 3). -/
def Obligations.DecodeOfEncodeIsTheInstruction : Prop :=
  ∀ i : Instr, wellFormed i = true → decode (channelOf i) (encode i) = .ok i

/-- A word that decodes is exactly the encoding of what it decodes to, which is well formed and of that channel: each
word has one meaning, and no bit of a word is dropped. -/
def Obligations.EncodeOfDecodeIsTheWord : Prop :=
  ∀ (ch : Channel) (bytes : List Byte) (i : Instr), decode ch bytes = .ok i →
    channelOf i = ch ∧ wellFormed i = true ∧ encode i = bytes

/-- R60: an encoded instruction has its row's length (CRC16's row leaves the data bytes out) and carries the row's
fixed bits under the row's mask. -/
def Obligations.EncodedWordMatchesItsTableRow : Prop :=
  ∀ i : Instr, wellFormed i = true →
    (encode i).length = (tableRow i).bytes + (match i with
      | .crc16 data => data.length
      | _ => 0) ∧
    bytesNumber ((encode i).take (tableRow i).bytes) &&& (tableRow i).mask = (tableRow i).fixed

/-- R83: an unassigned selector, a wrong length, a SETPIX colour byte other than 0x00 and 0x01, and a CLEARTO operand
with one of bits 7 to 2 set are refused, and nothing is performed. How the host's calls wait is the model's choice
(log 2). -/
def Obligations.MalformedCommandWordIsRefused : Prop :=
  ∀ (s : State) (sel : Byte) (ops : List Byte) (rest : List (List Byte)), s.crossings = [] →
    s.hostCalls = (sel :: ops) :: rest →
    (sel ∉ hostSelectors → step s = .refused (.invalidWord (.unknownSelector sel))) ∧
    (∀ n, (sel, n) ∈ fixedLengthCommands → ops.length ≠ n → step s = .refused (.invalidWord (.wrongLength sel))) ∧
    (sel = 0x01 → ops.length < 2 → step s = .refused (.invalidWord (.wrongLength sel))) ∧
    (∀ h l data, sel = 0x01 → ops = h :: l :: data → data.length ≠ 256 * h.toNat + l.toNat →
      step s = .refused (.invalidWord (.wrongLength sel))) ∧
    (∀ xh xl yh yl c, sel = 0x40 → ops = [xh, xl, yh, yl, c] → c ≠ 0x00 → c ≠ 0x01 →
      step s = .refused (.invalidWord (.badColour c))) ∧
    (∀ b, sel = 0x42 → ops = [b] → b >>> 2 ≠ 0 → step s = .refused (.invalidWord (.reservedBits b)))

/-- A few words written out from the spec's tables decode to their instructions (sanity). -/
def Obligations.WrittenWordsDecode : Prop :=
  decode .host [0x27, 0x00, 0x01, 0xC2, 0x00] = .ok (.setbaud 115200) ∧
  decode .host [0x40, 0x01, 0x8F, 0x00, 0xEF, 0x00] = .ok (.setpix 399 239 .dark) ∧
  decode .toSensor [0x01, 0x03, 0x00, 0x03, 0x00, 0x01, 0x74, 0x0A] = .ok (.mrqR 0x01 0x0003 0x0A74) ∧
  decode .fromSensor [0x01, 0x83, 0x02, 0xC0, 0xF1] = .ok (.mrsX 0x01 0x03 0x02 0xF1C0) ∧
  decode .display [0x06, 0x00] = .ok (.dcl true)

/-! ## Steps and invariants -/

/-- When the host's next call decodes, step is exec of the operation at the state without that call; so is a wire form
that crosses by itself, where the sensor sends it or it is traffic of a host operation that emits it; with nothing
called the block does nothing (R28, R202, R215). How calls and crossings wait is the model's choice (logs 1 and 2). -/
def Obligations.StepPerformsTheDecodedInstruction : Prop :=
  (∀ (s : State) (word : List Byte) (rest : List (List Byte)) (i : Instr), s.crossings = [] →
    s.hostCalls = word :: rest → decode .host word = .ok i → step s = exec i { s with hostCalls := rest }) ∧
  (∀ (s : State) (c : Crossing) (rest : List Crossing) (i : Instr), s.crossings = c :: rest →
    decode c.channel c.bytes = .ok i → (c.channel = .fromSensor ∨ ∃ op, c.operation = some op ∧ emits op i = true) →
    step s = exec i { s with crossings := rest }) ∧
  (∀ s : State, s.crossings = [] → s.hostCalls = [] → step s = .next s)

/-- Every step keeps the invariant: the framebuffer canonical and inside addresses 0 to 11999 (R41), SCS the level last
driven on the select line (R15), the records of a partial write that is being put together emittable: wire line
addresses 1 to 240, ascending (R81). The canonical form and the part-wise write are the model's (logs 5 and 11). -/
def Obligations.EveryStepKeepsTheInvariant : Prop :=
  ∀ s t : State, Inv s → step s = .next t → Inv t

/-- The fresh state meets the invariant. -/
def Obligations.ResetMeetsTheInvariant : Prop := Inv State.reset

/-- R36: the values the spec gives the fresh state, and that creation has written nothing to either transport. That
creation does no I/O is the spec's own flagged decision D29, and SCS = 0 its decision D17: those clauses are the
model's choice (logs 18 and 6). DEV_ADDR_INIT and FB_INIT are free constants (logs 4 and 5). -/
def Obligations.ResetIsTheFreshState : Prop :=
  State.reset.p = false ∧ State.reset.scs = false ∧ (∀ y, dirtyBit State.reset.dirty y = false) ∧
  State.reset.devAddr = Config.devAddrInit ∧
  (∀ a, a < 12000 → Memory.read State.reset.fb a = Config.fbInit a) ∧
  (∀ y, panelLine State.reset.panel y = none) ∧
  State.reset.serialOut = [] ∧ State.reset.busOut = []

/-- There is no stuck state and no trap: in every state every host operation answers a next state and returns exactly
one result (R13, R217). That READEXACT and DRAIN return rests on R217's environment premise, that every read is answered
and the sensor falls silent: the supply is always finite here and ends in silence, which is the model's choice (log 7).
A wire form but DWR.line and DWR.trailer answers a next state too, with at most one result;
that, and what those two do, is the model's choice (logs 1 and 11). -/
def Obligations.EveryOperationReturns : Prop :=
  (∀ (i : Instr) (s : State), channelOf i = .host →
    ∃ t r, exec i s = .next t ∧ t.results = s.results ++ [r]) ∧
  (∀ (i : Instr) (s : State), channelOf i ≠ .host → (∀ line pixels, i ≠ .dwrLine line pixels) → i ≠ .dwrTrailer →
    ∃ t rs, exec i s = .next t ∧ t.results = s.results ++ rs ∧ rs.length ≤ 1)

/-- R215, the last column, and R37: the host touches a transport, FB or DIRTY only through the operations. With no
wire form crossing, a step puts none there; it touches the serial transport only in a sensor operation that the host
called, the display bus or the select line only in HWCLEAR, TOGGLE or FLUSH, FB only in SETPIX or CLEARTO, DIRTY only
in the drawing operations, HWCLEAR and FLUSH. A form on a wire that the block drives is refused outside an operation
that emits it (R209); that such forms are steps at all is the model's choice (log 1). -/
def Obligations.HostActsThroughOperationsOnly : Prop :=
  (∀ s t : State, s.crossings = [] → step s = .next t →
    t.crossings = [] ∧ t.openWrite = s.openWrite ∧
    ((t.serialOut, t.serialRx) ≠ (s.serialOut, s.serialRx) →
      ∃ i, callsNext s i ∧ (requestOf i s ≠ none ∨ i = .drain)) ∧
    ((t.busOut, t.scs, t.p) ≠ (s.busOut, s.scs, s.p) → ∃ i, callsNext s i ∧ isDisplayOperation i = true) ∧
    (t.fb ≠ s.fb → ∃ i, callsNext s i ∧ ((∃ x y c, i = .setpix x y c) ∨ ∃ c mark, i = .clearto c mark)) ∧
    (t.dirty ≠ s.dirty → ∃ i, callsNext s i ∧
      ((∃ x y c, i = .setpix x y c) ∨ (∃ c, i = .clearto c true) ∨ i = .markall ∨ i = .hwclear ∨ i = .flush))) ∧
  (∀ (s : State) (c : Crossing) (rest : List Crossing) (i : Instr), s.crossings = c :: rest →
    decode c.channel c.bytes = .ok i → c.channel ≠ .fromSensor →
    (∀ op, c.operation = some op → emits op i = false) → step s = .refused .outsideOperation)

/-- The sensor driver's operations and wire forms leave the display driver's state, the bus, the host's calls and the
crossings as they are (R2, R20, R111, R134). -/
def Obligations.SensorInstructionLeavesTheDisplayDriver : Prop :=
  ∀ (i : Instr) (s t : State), isSensorInstr i = true → exec i s = .next t →
    t.p = s.p ∧ t.scs = s.scs ∧ t.fb = s.fb ∧ t.dirty = s.dirty ∧ t.panel = s.panel ∧ t.openWrite = s.openWrite ∧
    t.busScript = s.busScript ∧ t.busOut = s.busOut ∧ t.busDraws = s.busDraws ∧ t.hostCalls = s.hostCalls ∧
    t.crossings = s.crossings

/-- The display driver's operations and wire forms leave the sensor driver's state, the serial transport, the log, the
host's calls and the crossings as they are (R2, R20, R140). -/
def Obligations.DisplayInstructionLeavesTheSensorDriver : Prop :=
  ∀ (i : Instr) (s t : State), isSensorInstr i = false → exec i s = .next t →
    t.devAddr = s.devAddr ∧ t.serialRx = s.serialRx ∧ t.serWriteScript = s.serWriteScript ∧
    t.serDraws = s.serDraws ∧ t.serialOut = s.serialOut ∧ t.logOut = s.logOut ∧ t.hostCalls = s.hostCalls ∧
    t.crossings = s.crossings

/-- DEVADDR changes only in SETADDR, to its operand, a legal address, and only when it returned `Ok` (R21, R128). -/
def Obligations.OnlySetaddrChangesTheDeviceAddress : Prop :=
  ∀ (i : Instr) (s t : State), exec i s = .next t → t.devAddr ≠ s.devAddr →
    i = .setaddr t.devAddr ∧ 0x01 ≤ t.devAddr.toNat ∧ t.devAddr.toNat ≤ 0xFD ∧ t.results = s.results ++ [.ok]

/-- R193: an operation that returns an error leaves DEVADDR, P, DIRTY and FB as they were; SCS and the bus too, unless
the error is `Bus`. -/
def Obligations.ErrorCommitsNothing : Prop :=
  ∀ (i : Instr) (s t : State) (k : ErrorKind), channelOf i = .host → exec i s = .next t →
    t.results = s.results ++ [.err k] →
    t.devAddr = s.devAddr ∧ t.p = s.p ∧ t.dirty = s.dirty ∧ t.fb = s.fb ∧
    ((∀ e, k ≠ .bus e) → t.scs = s.scs ∧ t.busOut = s.busOut)

/-! ## U1, the CRC unit -/

/-- R91, R92: CRC16 returns the checksum, folded byte by byte from 0xFFFF: the byte is XORed into the low byte, then
eight times the accumulator is shifted right and, where bit 0 was set before the shift, XORed with 0xA001. Nothing
else of the state changes. -/
def Obligations.Crc16ReturnsTheChecksum : Prop :=
  ∀ (data : List Byte) (s : State),
    exec (.crc16 data) s = .next { s with results := s.results ++ [.checksum (data.foldl
      (fun acc b => (fun a : Word => if a &&& 1 = 1 then (a >>> 1) ^^^ 0xA001 else a >>> 1)^[8]
        (acc ^^^ b.setWidth 16)) 0xFFFF)] }

/-- R95: a message followed by its CRC, low byte first, has the CRC 0x0000. -/
def Obligations.CrcOfSealedMessageIsZero : Prop :=
  ∀ s : List Byte, crc16 (s ++ [lo (crc16 s), hi (crc16 s)]) = 0x0000

/-- R109: changing any one byte of a response with a good CRC, the CRC bytes included, gives `CrcMismatch`. -/
def Obligations.CorruptedResponseIsCrcMismatch : Prop :=
  ∀ (devAddr : Byte) (body : List Byte) (fn : Byte) (k : Nat) (b : Byte), k < (withCrc body).length →
    (withCrc body)[k]? ≠ some b →
    validate devAddr ((withCrc body).set k b) (withCrc body).length fn = some .crcMismatch

/-! ## U2, the Modbus client -/

/-- R101, R32, R208: however the transport cuts n bytes into reads of at least one byte each, READEXACT returns them in
order and leaves what comes after; where a chunk, the first or one after shorter ones, is longer than what is still
missing, it takes only the missing bytes of it and the rest stays for the next read. -/
def Obligations.ReadExactTakesAnyChunks : Prop :=
  ∀ (chunks : List (List Byte)) (q : List RxEvent), (∀ c ∈ chunks, c ≠ []) →
    readExact chunks.flatten.length (chunks.map RxEvent.data ++ q) = (.ok chunks.flatten, q) ∧
    ∀ (n : Nat) (bytes : List Byte), chunks.flatten.length < n → n < chunks.flatten.length + bytes.length →
      readExact n (chunks.map RxEvent.data ++ .data bytes :: q) =
        (.ok (chunks.flatten ++ bytes.take (n - chunks.flatten.length)),
          .data (bytes.drop (n - chunks.flatten.length)) :: q)

/-- R101, R181, R187, R192: before n bytes have come, a zero-length read is `Timeout` and a failing one `Io`, in
READEXACT and so in every operation that does an exchange: it has written its request, the bytes received are consumed
and returned to nobody, and nothing but the transport and the results changes. At the end of what the transport
supplies READEXACT reads silence; that the supply ends in silence is the model's choice (log 7). -/
def Obligations.ReadExactStopsShort : Prop :=
  ∀ (n : Nat) (chunks : List (List Byte)) (q : List RxEvent), (∀ c ∈ chunks, c ≠ []) → chunks.flatten.length < n →
    readExact n (chunks.map RxEvent.data ++ .data [] :: q) = (.error .timeout, q) ∧
    readExact n (chunks.map RxEvent.data) = (.error .timeout, []) ∧
    readExact n (chunks.map RxEvent.data ++ .fail :: q) = (.error .io, q) ∧
    ∀ (i : Instr) (s : State) (tx : List Byte), requestOf i s = some (tx, n) → nextSerAnswer s = .ok →
      (s.serialRx = chunks.map RxEvent.data ++ .data [] :: q → exec i s = .next { s.serAnswered with
        serialOut := s.serialOut ++ tx, serialRx := q, results := s.results ++ [.err .timeout] }) ∧
      (s.serialRx = chunks.map RxEvent.data ++ .fail :: q → exec i s = .next { s.serAnswered with
        serialOut := s.serialOut ++ tx, serialRx := q, results := s.results ++ [.err .io] })

/-- R103: the checks in their order; the first that fails decides, and a response that passes all of them is good.
Step 5 is for a read only. `rx` has the n bytes read, n at least 3. -/
def Obligations.ValidationReportsTheFirstFailure : Prop :=
  ∀ (devAddr : Byte) (rx : List Byte) (n : Nat) (fn : Byte) (b0 b1 b2 cl ch : Byte), rx.length = n → 3 ≤ n →
    rx[0]? = some b0 → rx[1]? = some b1 → rx[2]? = some b2 → rx[n - 2]? = some cl → rx[n - 1]? = some ch →
    (crc16 (rx.take (n - 2)) ≠ le16 cl ch → validate devAddr rx n fn = some .crcMismatch) ∧
    (crc16 (rx.take (n - 2)) = le16 cl ch →
      (b1.getLsbD 7 = true → validate devAddr rx n fn = some (.modbusException b2)) ∧
      (b1.getLsbD 7 = false →
        (b0 ≠ devAddr → validate devAddr rx n fn = some .addressMismatch) ∧
        (b0 = devAddr →
          (b1 ≠ fn → validate devAddr rx n fn = some .functionMismatch) ∧
          (b1 = fn →
            (fn = 0x03 ∧ b2 ≠ 0x02 → validate devAddr rx n fn = some .invalidLength) ∧
            (¬ (fn = 0x03 ∧ b2 ≠ 0x02) → validate devAddr rx n fn = none)))))

/-- R104, R105, R192: RDHR and every getter return what VALIDATE answers on the 7 bytes that the transport supplies in
any reads, or else `Ok` of the big-endian value; WRSR and every setter return what it answers on the 8 bytes, or else
`Ok`, and SETADDR takes its operand as DEVADDR in that case only (R128). What the transport has after those bytes stays
for the next read (R208). Nothing but the transport and the results changes beside that. That a write's echo is not
compared is the spec's own flagged decision D7, and so the model's choice (log 14); that a response is always read and
validated at full length is its flagged decision D6, and so the model's choice too (log 13). -/
def Obligations.ResponsesAreValidated : Prop :=
  ∀ (i : Instr) (s : State) (rx : List Byte) (rest : List RxEvent), nextSerAnswer s = .ok → supplies s rx rest →
    (∀ reg, readRegister i = some reg → rx.length = 7 →
      exec i s = .next { s.serAnswered with
        serialOut := s.serialOut ++ readRequest s.devAddr reg, serialRx := rest,
        results := s.results ++ [match validate s.devAddr rx 7 0x03 with
          | some k => .err k
          | none => .okValue (be16 (rx.getD 3 0) (rx.getD 4 0))] }) ∧
    (∀ reg val, writtenRegister i = some (reg, val) → rx.length = 8 →
      exec i s = .next { s.serAnswered with
        devAddr := (match validate s.devAddr rx 8 0x06 with
          | some _ => s.devAddr
          | none => addressWritten i s),
        serialOut := s.serialOut ++ writeRequest s.devAddr reg val, serialRx := rest,
        results := s.results ++ [match validate s.devAddr rx 8 0x06 with
          | some k => .err k
          | none => .ok] })

/-- R104, R108: RDHR writes the read request for DEVADDR and the register; a good response, in any reads, gives `Ok`
of the big-endian value. Only the transport and the results change. -/
def Obligations.RdhrReturnsTheRegister : Prop :=
  ∀ (s : State) (reg v : Word) (rest : List RxEvent), nextSerAnswer s = .ok →
    supplies s (readResponse s.devAddr v) rest →
    exec (.rdhr reg) s = .next { s.serAnswered with
      serialOut := s.serialOut ++ readRequest s.devAddr reg, serialRx := rest,
      results := s.results ++ [.okValue v] }

/-- R122 to R131: each getter is one read of its own register and returns the raw value. -/
def Obligations.GettersReturnTheirRegisters : Prop :=
  ∀ (i : Instr) (reg : Word), (i, reg) ∈ [(Instr.getempty, (0x0001 : Word)), (.getlevel, 0x0003), (.getinst, 0x0005),
      (.getaddr, 0x03F4), (.getbaud, 0x03F6), (.getrange, 0x07D4)] →
    ∀ (s : State) (v : Word) (rest : List RxEvent), nextSerAnswer s = .ok →
      supplies s (readResponse s.devAddr v) rest →
      exec i s = .next { s.serAnswered with
        serialOut := s.serialOut ++ readRequest s.devAddr reg, serialRx := rest,
        results := s.results ++ [.okValue v] }

/-- R105, R107: WRSR writes the write request; an 8-byte response from DEVADDR with function 0x06 and a good CRC gives
`Ok`, whatever register and value it echoes. That the echo is not compared is the spec's own flagged decision D7, and
so the model's choice (log 14). -/
def Obligations.WrsrReturnsOk : Prop :=
  ∀ (s : State) (reg val reg' val' : Word) (rest : List RxEvent), nextSerAnswer s = .ok →
    supplies s (writeRequest s.devAddr reg' val') rest →
    exec (.wrsr reg val) s = .next { s.serAnswered with
      serialOut := s.serialOut ++ writeRequest s.devAddr reg val,
      serialRx := rest, results := s.results ++ [.ok] }

/-- R125, R132: SETINST and SETRANGE write every value to their register. That `Ok` comes whatever register and value the
response echoes is the spec's own flagged decision D7, and so the model's choice (log 14). -/
def Obligations.SettersWriteTheirRegisters : Prop :=
  ∀ (s : State) (val reg' val' : Word) (rest : List RxEvent), nextSerAnswer s = .ok →
    supplies s (writeRequest s.devAddr reg' val') rest →
    exec (.setinst val) s = .next { s.serAnswered with
      serialOut := s.serialOut ++ writeRequest s.devAddr 0x0005 val,
      serialRx := rest, results := s.results ++ [.ok] } ∧
    exec (.setrange val) s = .next { s.serAnswered with
      serialOut := s.serialOut ++ writeRequest s.devAddr 0x07D4 val,
      serialRx := rest, results := s.results ++ [.ok] }

/-- R127, R128: SETADDR of a legal address writes it to register 0x03F4 at the old DEVADDR; a good response from the
old DEVADDR gives `Ok`, and then DEVADDR is the new address. That it does so whatever register and value the response
echoes is the spec's own flagged decision D7, and so the model's choice (log 14). -/
def Obligations.SetaddrMovesTheDeviceAddress : Prop :=
  ∀ (s : State) (a : Byte) (reg' val' : Word) (rest : List RxEvent), 0x01 ≤ a.toNat →
    a.toNat ≤ 0xFD → nextSerAnswer s = .ok → supplies s (writeRequest s.devAddr reg' val') rest →
    exec (.setaddr a) s = .next { s.serAnswered with
      devAddr := a,
      serialOut := s.serialOut ++ writeRequest s.devAddr 0x03F4 (a.setWidth 16), serialRx := rest,
      results := s.results ++ [.ok] }

/-- R189: SETADDR of 0x00, 0xFE or 0xFF is `InvalidAddress` with no transport I/O at all. -/
def Obligations.SetaddrRejectsIllegalAddresses : Prop :=
  ∀ (s : State) (a : Byte), a ∈ [(0x00 : Byte), 0xFE, 0xFF] →
    exec (.setaddr a) s = .next { s with results := s.results ++ [.err .invalidAddress] }

/-- R130: SETBAUD of one of the nine rates writes the rate divided by 100 to register 0x03F6. That `Ok` comes whatever
register and value the response echoes is the spec's own flagged decision D7, and so the model's choice (log 14). -/
def Obligations.SetbaudWritesTheCode : Prop :=
  ∀ (baud : BitVec 32) (code : Word),
    (baud, code) ∈ [((4800 : BitVec 32), (48 : Word)), (9600, 96), (14400, 144), (19200, 192), (38400, 384), (56000, 560),
      (57600, 576), (115200, 1152), (129000, 1290)] →
    ∀ (s : State) (reg' val' : Word) (rest : List RxEvent), nextSerAnswer s = .ok →
      supplies s (writeRequest s.devAddr reg' val') rest →
      exec (.setbaud baud) s = .next { s.serAnswered with
        serialOut := s.serialOut ++ writeRequest s.devAddr 0x03F6 code,
        serialRx := rest, results := s.results ++ [.ok] }

/-- R188: SETBAUD of any other rate is `InvalidBaudRate` with no transport I/O at all. -/
def Obligations.SetbaudRejectsOtherRates : Prop :=
  ∀ (s : State) (baud : BitVec 32),
    baud.toNat ∉ [4800, 9600, 14400, 19200, 38400, 56000, 57600, 115200, 129000] →
    exec (.setbaud baud) s = .next { s with results := s.results ++ [.err .invalidBaudRate] }

/-- R102, R181: when the transport fails the write of an operation's request, RDHR, WRSR and every accessor return
`Io`; only a prefix of the request has been sent, nothing is read, and DEVADDR stays. -/
def Obligations.FailedRequestWriteIsIo : Prop :=
  ∀ (i : Instr) (s : State) (tx : List Byte) (n k : Nat), requestOf i s = some (tx, n) → nextSerAnswer s = .fail k →
    exec i s = .next { s.serAnswered with
      serialOut := s.serialOut ++ tx.take k, results := s.results ++ [.err .io] }

/-- R110, first and second rows, the frame cut into any reads: exactly the 5 bytes of an exception frame and then
silence is `Timeout`, and the 5 bytes are consumed; the 5 bytes followed by the 2 (read) or 3 (write) missing ones is
`CrcMismatch` unless the last two are the CRC of the bytes before them. So the short frame is not reported as an
exception: that is the spec's own flagged decision D6, and so the model's choice (log 13). -/
def Obligations.ShortExceptionFrameIsNotReported : Prop :=
  ∀ (s : State) (reg val : Word) (a f code x y z : Byte), nextSerAnswer s = .ok →
    (∀ (chunks : List (List Byte)) (q : List RxEvent), (∀ c ∈ chunks, c ≠ []) →
      s.serialRx = chunks.map RxEvent.data ++ .data [] :: q → chunks.flatten = exceptionResponse a f code →
      exec (.rdhr reg) s = .next { s.serAnswered with
        serialOut := s.serialOut ++ readRequest s.devAddr reg, serialRx := q,
        results := s.results ++ [.err .timeout] } ∧
      exec (.wrsr reg val) s = .next { s.serAnswered with
        serialOut := s.serialOut ++ writeRequest s.devAddr reg val, serialRx := q,
        results := s.results ++ [.err .timeout] }) ∧
    (∀ rest, supplies s (exceptionResponse a f code ++ [y, z]) rest → le16 y z ≠ 0x0000 →
      exec (.rdhr reg) s = .next { s.serAnswered with
        serialOut := s.serialOut ++ readRequest s.devAddr reg, serialRx := rest,
        results := s.results ++ [.err .crcMismatch] }) ∧
    (∀ rest, supplies s (exceptionResponse a f code ++ [x, y, z]) rest → le16 y z ≠ crcStep 0x0000 x →
      exec (.wrsr reg val) s = .next { s.serAnswered with
        serialOut := s.serialOut ++ writeRequest s.devAddr reg val, serialRx := rest,
        results := s.results ++ [.err .crcMismatch] })

/-- R110, third row, and R186: a 7-byte frame (read) or 8-byte frame (write), cut into any reads, with bit 7 of byte 1
set and a good CRC is `ModbusException` of byte 2, whatever its address. That an exception response is read at full
length is the spec's own flagged decision D6, and so the model's choice (log 13). -/
def Obligations.FullLengthExceptionIsReported : Prop :=
  ∀ (s : State) (reg val : Word) (body : List Byte) (f code : Byte) (rest : List RxEvent),
    nextSerAnswer s = .ok → f.getLsbD 7 = true → body[1]? = some f → body[2]? = some code →
    supplies s (withCrc body) rest →
    (body.length = 5 → exec (.rdhr reg) s = .next { s.serAnswered with
      serialOut := s.serialOut ++ readRequest s.devAddr reg, serialRx := rest,
      results := s.results ++ [.err (.modbusException code)] }) ∧
    (body.length = 6 → exec (.wrsr reg val) s = .next { s.serAnswered with
      serialOut := s.serialOut ++ writeRequest s.devAddr reg val, serialRx := rest,
      results := s.results ++ [.err (.modbusException code)] })

/-- R106: re-deriving the fields of the frame that WRSR writes gives the register, the value and the CRC of the first
six bytes; the same for RDHR with a count of 1. -/
def Obligations.RequestFieldsSurviveEncoding : Prop :=
  ∀ (s : State) (reg val : Word), nextSerAnswer s = .ok →
    (∃ t t0 t1 t2 t3 t4 t5 t6 t7, exec (.wrsr reg val) s = .next t ∧
      t.serialOut = s.serialOut ++ [t0, t1, t2, t3, t4, t5, t6, t7] ∧ be16 t2 t3 = reg ∧ be16 t4 t5 = val ∧
      crc16 [t0, t1, t2, t3, t4, t5] = le16 t6 t7) ∧
    (∃ t t0 t1 t2 t3 t4 t5 t6 t7, exec (.rdhr reg) s = .next t ∧
      t.serialOut = s.serialOut ++ [t0, t1, t2, t3, t4, t5, t6, t7] ∧ be16 t2 t3 = reg ∧ be16 t4 t5 = 1 ∧
      crc16 [t0, t1, t2, t3, t4, t5] = le16 t6 t7)

/-! ## U3, the drain -/

/-- R133: DRAIN consumes the text up to the first zero-length read or failure, logs each completed line's printable
bytes and, where DRAIN_EMIT_PARTIAL says so, an unterminated last line; it returns nothing, and no register changes.
Where nothing that waits ends the drain, it goes on with what the transport supplies next, a free draw: the drain of
both together consumes all that waited, logs its completed lines first, and leaves a last part of the draw; at the end
of what is supplied it reads silence (log 7). What counts as newline and as printable is the spec's decision D25
(log 19). -/
def Obligations.DrainLogsTheText : Prop :=
  ∀ (s : State) (chunks : List (List Byte)) (q : List RxEvent), (∀ c ∈ chunks, c ≠ []) →
    (s.serialRx = chunks.map RxEvent.data ++ .data [] :: q ∨ s.serialRx = chunks.map RxEvent.data ++ .fail :: q →
      exec .drain s = .next { s with
        serialRx := q,
        logOut := s.logOut ++ ((drainText [] chunks.flatten).1 ++
          (if (drainText [] chunks.flatten).2 ≠ [] ∧ Config.drainEmitPartial = true
            then [(drainText [] chunks.flatten).2] else [])),
        results := s.results ++ [.nothing] }) ∧
    (s.serialRx = chunks.map RxEvent.data → ∃ more rest,
      drainAll (s.serialRx ++ Config.serSupply s.serDraws) = ((drainText [] chunks.flatten).1 ++ more, rest) ∧
      rest <:+ Config.serSupply s.serDraws ∧
      exec .drain s = .next { s with
        serialRx := rest, serDraws := s.serDraws + 1,
        logOut := s.logOut ++ ((drainText [] chunks.flatten).1 ++ more), results := s.results ++ [.nothing] }) ∧
    drainAll (chunks.map RxEvent.data) = ((drainText [] chunks.flatten).1 ++
      (if (drainText [] chunks.flatten).2 ≠ [] ∧ Config.drainEmitPartial = true
        then [(drainText [] chunks.flatten).2] else []), [])

/-! ## U4, the framebuffer -/

/-- R141, R42: SETPIX of a pixel of the grid makes its bit the colour and leaves the byte's other bits, every other
byte and every other dirty bit; line y is marked where the byte changed, and no mark is taken away. -/
def Obligations.SetpixPaintsOnePixel : Prop :=
  ∀ (s : State) (x y : Word) (c : Colour), 0 ≤ x.toInt → x.toInt < 400 → 0 ≤ y.toInt → y.toInt < 240 →
    ∃ m d, exec (.setpix x y c) s = .next { s with fb := m, dirty := d, results := s.results ++ [.nothing] } ∧
      (Memory.read m (50 * y.toInt.toNat + x.toInt.toNat / 8)).getLsbD (x.toInt.toNat % 8) = decide (c = .light) ∧
      (∀ k, k < 8 → k ≠ x.toInt.toNat % 8 →
        (Memory.read m (50 * y.toInt.toNat + x.toInt.toNat / 8)).getLsbD k =
          (Memory.read s.fb (50 * y.toInt.toNat + x.toInt.toNat / 8)).getLsbD k) ∧
      (∀ a, a ≠ 50 * y.toInt.toNat + x.toInt.toNat / 8 → Memory.read m a = Memory.read s.fb a) ∧
      (∀ l, l < 240 → dirtyBit d l = (dirtyBit s.dirty l ||
        decide (l = y.toInt.toNat ∧ Memory.read m (50 * y.toInt.toNat + x.toInt.toNat / 8) ≠
          Memory.read s.fb (50 * y.toInt.toNat + x.toInt.toNat / 8))))

/-- R141: setting a pixel to the colour it has changes neither FB nor DIRTY; outside the grid in either coordinate,
negative ones among them, SETPIX is a silent no-op. -/
def Obligations.SetpixWithNothingToPaintChangesNothing : Prop :=
  ∀ (s : State) (x y : Word) (c : Colour),
    (0 ≤ x.toInt → x.toInt < 400 → 0 ≤ y.toInt → y.toInt < 240 →
      (Memory.read s.fb (50 * y.toInt.toNat + x.toInt.toNat / 8)).getLsbD (x.toInt.toNat % 8) = decide (c = .light) →
      exec (.setpix x y c) s = .next { s with results := s.results ++ [.nothing] }) ∧
    ((x.toInt < 0 ∨ 400 ≤ x.toInt ∨ y.toInt < 0 ∨ 240 ≤ y.toInt) →
      exec (.setpix x y c) s = .next { s with results := s.results ++ [.nothing] })

/-- R142: GETPIX returns the pixel's bit as a colour, and `none` outside the grid; no state is written. -/
def Obligations.GetpixReadsThePixel : Prop :=
  ∀ (s : State) (x y : Word),
    (0 ≤ x.toInt → x.toInt < 400 → 0 ≤ y.toInt → y.toInt < 240 →
      exec (.getpix x y) s = .next { s with results := s.results ++ [.pixel (some
        (if (Memory.read s.fb (50 * y.toInt.toNat + x.toInt.toNat / 8)).getLsbD (x.toInt.toNat % 8)
          then .light else .dark))] }) ∧
    ((x.toInt < 0 ∨ 400 ≤ x.toInt ∨ y.toInt < 0 ∨ 240 ≤ y.toInt) →
      exec (.getpix x y) s = .next { s with results := s.results ++ [.pixel none] })

/-- R142: after SETPIX in the grid, GETPIX of that pixel is the colour, and GETPIX of every other coordinate is as it
was. -/
def Obligations.GetpixAfterSetpix : Prop :=
  ∀ (s t : State) (x y : Word) (c : Colour), 0 ≤ x.toInt → x.toInt < 400 → 0 ≤ y.toInt → y.toInt < 240 →
    exec (.setpix x y c) s = .next t →
    exec (.getpix x y) t = .next { t with results := t.results ++ [.pixel (some c)] } ∧
    ∀ x' y' : Word, (x', y') ≠ (x, y) → ∀ r,
      exec (.getpix x' y') s = .next { s with results := s.results ++ [.pixel r] } →
      exec (.getpix x' y') t = .next { t with results := t.results ++ [.pixel r] }

/-- R144: CLEARTO makes every framebuffer byte 0xFF or 0x00; with the mark every line is dirty, without it the dirty
bitmap stays. -/
def Obligations.CleartoFillsTheBuffer : Prop :=
  ∀ (s : State) (c : Colour) (mark : Bool), ∃ m,
    exec (.clearto c mark) s = .next { s with
      fb := m, dirty := if mark then BitVec.allOnes 240 else s.dirty, results := s.results ++ [.nothing] } ∧
    Memory.wf m = true ∧ ∀ a, a < 12000 → Memory.read m a = if c = .light then 0xFF else 0x00

/-- R145: MARKALL sets every dirty bit and nothing else. -/
def Obligations.MarkallMarksEveryLine : Prop :=
  ∀ s : State, ∃ d, exec .markall s = .next { s with dirty := d, results := s.results ++ [.nothing] } ∧
    ∀ y, y < 240 → dirtyBit d y = true

/-- R148: SIZE, host selector 0x44, returns (400, 240), width first, and writes no state. -/
def Obligations.SizeIsConstant : Prop :=
  decode .host [0x44] = .ok .size ∧
  ∀ s : State, exec .size s = .next { s with results := s.results ++ [.panelSize 400 240] }

/-- R146: what sets a dirty bit is SETPIX on that line where it changed the framebuffer, CLEARTO with the mark, or
MARKALL; what clears one is a successful HWCLEAR or a successful FLUSH, and it clears all. -/
def Obligations.DirtyBitWriters : Prop :=
  ∀ (i : Instr) (s t : State) (l : Nat), l < 240 → exec i s = .next t →
    (dirtyBit s.dirty l = false → dirtyBit t.dirty l = true →
      (∃ x y c, i = .setpix x y c ∧ y.toInt = l ∧ t.fb ≠ s.fb) ∨ (∃ c, i = .clearto c true) ∨ i = .markall) ∧
    (dirtyBit s.dirty l = true → dirtyBit t.dirty l = false →
      (i = .hwclear ∨ i = .flush) ∧ t.results = s.results ++ [.ok] ∧ t.dirty = 0#240)

/-! ## U5, the display engine -/

/-- R161: a successful HWCLEAR sends `04 00` or `06 00` with select asserted around them, clears every dirty bit and
inverts P; FB is not touched, which is the spec's own flagged decision D19, and so the model's choice (log 17). The
ghost panel shows the cleared image (D30; the model's choice, log 10). -/
def Obligations.HwclearClearsAndFlips : Prop :=
  ∀ s : State, nextBusAnswer s = .ok →
    exec .hwclear s = .next { s.busAnswered with
      dirty := 0#240, p := !s.p, scs := false,
      panel := Vector.replicate 240 (some (List.replicate 50 Config.panelClearByte)),
      busOut := s.busOut ++ bracketed s [if s.p then 0x06 else 0x04, 0x00], results := s.results ++ [.ok] }

/-- R162: a successful TOGGLE sends `00 00` or `02 00` with select asserted around them and inverts P; FB and DIRTY
stay whatever DIRTY holds. The ghost panel stays (D30; the model's choice, log 10). -/
def Obligations.ToggleFlips : Prop :=
  ∀ s : State, nextBusAnswer s = .ok →
    exec .toggle s = .next { s.busAnswered with
      p := !s.p, scs := false,
      busOut := s.busOut ++ bracketed s [if s.p then 0x02 else 0x00, 0x00], results := s.results ++ [.ok] }

/-- R163: a successful FLUSH with a dirty line sends the mode byte, the dirty lines' records and the trailer, clears
every dirty bit and inverts P; FB is read only. That the records are in ascending order is the spec's own flagged
decision D15, and so the model's choice (log 15). The ghost panel takes the sent lines (D30; the model's choice,
log 10). -/
def Obligations.FlushSendsTheDirtyLines : Prop :=
  ∀ s : State, nextBusAnswer s = .ok → s.dirty ≠ 0#240 → ∃ pan,
    exec .flush s = .next { s.busAnswered with
      dirty := 0#240, p := !s.p, scs := false, panel := pan,
      busOut := s.busOut ++ bracketed s ([if s.p then 0x03 else 0x01] ++
        ((List.range 240).filter (dirtyBit s.dirty)).flatMap (dirtyRecord s.fb) ++ [0x00]),
      results := s.results ++ [.ok] } ∧
    ∀ y, y < 240 → panelLine pan y = if dirtyBit s.dirty y then some (fbLine s.fb y) else panelLine s.panel y

/-- R163, R84: a FLUSH with no dirty line is exactly TOGGLE: result, bus bytes and state change. -/
def Obligations.FlushOfCleanBufferIsToggle : Prop :=
  ∀ s : State, (∀ y, y < 240 → dirtyBit s.dirty y = false) → exec .flush s = exec .toggle s

/-- R164: the layout of the stream that FLUSH puts between the select levels, byte by byte. `ys` are the dirty lines; the
stream has the mode byte, 52 bytes for each of them and the final trailer. That they come in ascending order is the
spec's own flagged decision D15, and so the model's choice (log 15). -/
def Obligations.WriteStreamLayout : Prop :=
  ∀ (s : State) (ys : List Nat), nextBusAnswer s = .ok → ys = (List.range 240).filter (dirtyBit s.dirty) → ys ≠ [] →
    ∃ t stream, exec .flush s = .next t ∧ t.busOut = s.busOut ++ bracketed s stream ∧
      stream.length = 2 + 52 * ys.length ∧ ys.Pairwise (· < ·) ∧
      stream[0]? = some (if s.p then 0x03 else 0x01) ∧
      (∀ j y, ys[j]? = some y →
        stream[1 + 52 * j]? = some (BitVec.ofNat 8 (y + 1)) ∧
        (∀ k, k < 50 → stream[2 + 52 * j + k]? = some (Memory.read s.fb (50 * y + k))) ∧
        stream[52 * (j + 1)]? = some 0x00) ∧
      stream[1 + 52 * ys.length]? = some 0x00

/-- R165, R34: a display operation whose bus write fails after n bytes returns `Bus(e)`; P, DIRTY and FB are as before,
only a prefix of the stream was sent, the select line is either left asserted or released, and a retry would send the
same bytes. On the ghost panel HWCLEAR leaves no line known, FLUSH no dirty line, and every other line stays as it was.
The stream's ascending lines are the spec's own flagged decision D15 and the select line after a failure its decision
D17, and so the model's choices (logs 15 and 6); so is the ghost panel (D30, log 10). -/
def Obligations.FailedDisplayOperation : Prop :=
  ∀ (i : Instr) (s : State) (e : BusError) (n : Nat), isDisplayOperation i = true → nextBusAnswer s = .fail e n →
    ∃ t released, exec i s = .next t ∧ t.results = s.results ++ [.err (.bus e)] ∧
      t.p = s.p ∧ t.dirty = s.dirty ∧ t.fb = s.fb ∧ t.busScript = s.busScript.tail ∧
      t.busOut = s.busOut ++ (if s.scs then [] else [.select true]) ++ ((displayStream i s).take n).map .byte ++
        (if released then [.select false] else []) ∧
      t.scs = !released ∧ displayStream i t = displayStream i s ∧
      ∀ y, y < 240 → panelLine t.panel y =
        if i = .hwclear ∨ i = .flush ∧ dirtyBit s.dirty y = true then none else panelLine s.panel y

/-- R166: P is inverted exactly by a display operation that returns `Ok`; no other instruction writes it. -/
def Obligations.PolarityFlipsExactlyOnSuccess : Prop :=
  ∀ (i : Instr) (s t : State), exec i s = .next t →
    t.p = if isDisplayOperation i ∧ t.results = s.results ++ [.ok] then !s.p else s.p

/-- R166: over any run from any state, P differs from its start value exactly where the number of successful
transactions is odd; from the fresh state P is n mod 2. -/
def Obligations.PolarityCountsSuccessfulTransactions : Prop :=
  (∀ (is : List Instr) (s : State),
    (runInstrs is s).p = (s.p ^^ decide (successfulTransactions is s % 2 = 1))) ∧
  ∀ is : List Instr, (runInstrs is State.reset).p = decide (successfulTransactions is State.reset % 2 = 1)

/-- R147, kept: every host operation but HWCLEAR and CLEARTO without marking keeps the promise that a line whose bytes
are not known to be on the panel is dirty, failed transactions among them. The panel is the ghost image of D30, whose
place in the model is the model's choice (log 10). -/
def Obligations.DirtyPromiseIsKept : Prop :=
  ∀ (i : Instr) (s t : State), PanelPromise s → channelOf i = .host → i ≠ .hwclear →
    (∀ c, i ≠ .clearto c false) → exec i s = .next t → PanelPromise t

/-- R147, R204: from any state, a successful FLUSH with all lines dirty establishes the promise; and under the promise
a successful FLUSH leaves every line of FB on the ghost panel. What the panel shows is the ghost image of D30, not the
panel itself: that is the model's choice (log 10). -/
def Obligations.FlushEstablishesThePanel : Prop :=
  ∀ s t : State, ((∀ y, y < 240 → dirtyBit s.dirty y = true) ∨ PanelPromise s) →
    nextBusAnswer s = .ok → exec .flush s = .next t →
    PanelPromise t ∧ ∀ y, y < 240 → panelLine t.panel y = some (fbLine t.fb y)

/-- R147 (b), R204 (b): after a successful HWCLEAR and a CLEARTO without marking, in either order and from any state,
every line of the panel is the cleared image, every line of FB the fill, and no line is dirty; so the promise holds
exactly where the fill is the panel's cleared byte. The cleared image is the free PANEL_CLEAR_BYTE (log 10).
That HWCLEAR leaves FB as the fill made it is the spec's own flagged decision D19, and so the model's choice (log 17). -/
def Obligations.ClearPairMakesPanelAndBufferUniform : Prop :=
  ∀ (s t u : State) (c : Colour), nextBusAnswer s = .ok →
    (exec .hwclear s = .next t ∧ exec (.clearto c false) t = .next u ∨
      exec (.clearto c false) s = .next t ∧ exec .hwclear t = .next u) →
    u.dirty = 0#240 ∧
    (∀ y, y < 240 → panelLine u.panel y = some (List.replicate 50 Config.panelClearByte) ∧
      fbLine u.fb y = List.replicate 50 (if c = .light then 0xFF else 0x00)) ∧
    (PanelPromise u ↔ (if c = .light then 0xFF else 0x00) = Config.panelClearByte)

/-! ## Wire forms: what one does as a step is the model's choice (log 1) -/

/-- MRQ-R and MRQ-W, the frames to the sensor: each is handed to the serial transport in one SerWrite (R14, R62, R64).
MRS-R, MRS-W and MRS-X, the frames from the sensor: their bytes wait in the transport after those already there (R32,
R55, R63 to R65). What a form does as a step is the model's choice (log 1); the bytes are the spec's. -/
def Obligations.FramesCrossTheSerialLink : Prop :=
  ∀ (s : State) (addr code : Byte) (fn : BitVec 7) (reg val crc : Word),
    (nextSerAnswer s = .ok → exec (.mrqR addr reg crc) s = .next { s.serAnswered with
      serialOut := s.serialOut ++ [addr, 0x03, hi reg, lo reg, 0x00, 0x01, lo crc, hi crc],
      results := s.results ++ [.ok] }) ∧
    (nextSerAnswer s = .ok → exec (.mrqW addr reg val crc) s = .next { s.serAnswered with
      serialOut := s.serialOut ++ [addr, 0x06, hi reg, lo reg, hi val, lo val, lo crc, hi crc],
      results := s.results ++ [.ok] }) ∧
    exec (.mrsR addr val crc) s = .next { s with
      serialRx := s.serialRx ++ [.data [addr, 0x03, 0x02, hi val, lo val, lo crc, hi crc]] } ∧
    exec (.mrsW addr reg val crc) s = .next { s with
      serialRx := s.serialRx ++ [.data [addr, 0x06, hi reg, lo reg, hi val, lo val, lo crc, hi crc]] } ∧
    exec (.mrsX addr fn code crc) s = .next { s with
      serialRx := s.serialRx ++ [.data [addr, 0x80 ||| fn.setWidth 8, code, lo crc, hi crc]] }

/-- A response frame that arrives and then the read of its register: the value gets through, in two steps (R32, R63,
R104). That the frame arrives in a step of its own is the model's choice (log 1). -/
def Obligations.ArrivedResponseIsRead : Prop :=
  ∀ (s t : State) (reg val : Word), nextSerAnswer s = .ok → s.serialRx = [] →
    exec (.mrsR s.devAddr val (crc16 [s.devAddr, 0x03, 0x02, hi val, lo val])) s = .next t →
    exec (.rdhr reg) t = .next { s.serAnswered with
      serialOut := s.serialOut ++ readRequest s.devAddr reg, results := s.results ++ [.okValue val] }

/-- The two-byte display transactions, alone: the bytes with select asserted around them; P, DIRTY and FB stay (R68,
R69, R71, R146, R166). What a form does as a step is the model's choice (log 1), and so is the ghost panel (log 10);
the bytes are the spec's. -/
def Obligations.LoneTransactionsAreSent : Prop :=
  ∀ (s : State) (pol : Bool), nextBusAnswer s = .ok →
    exec (.dcl pol) s = .next { s.busAnswered with
      scs := false, panel := Vector.replicate 240 (some (List.replicate 50 Config.panelClearByte)),
      busOut := s.busOut ++ bracketed s [if pol then 0x06 else 0x04, 0x00], results := s.results ++ [.ok] } ∧
    exec (.dtg pol) s = .next { s.busAnswered with
      scs := false, busOut := s.busOut ++ bracketed s [if pol then 0x02 else 0x00, 0x00],
      results := s.results ++ [.ok] }

/-- The parts of a partial write: the header begins a stream, a record with the next wire line address is added, and
the trailer sends the whole stream in one transaction with select around it (R70, R71, R163); P, DIRTY and FB stay and
the ghost panel takes the lines. What a part does as a step is the model's choice (logs 1, 10 and 11); the bytes are
the spec's. -/
def Obligations.PartsMakeAPartialWrite : Prop :=
  ∀ (s : State) (pol : Bool) (line : Byte) (pixels : List Byte) (recs : List LineRecord),
    exec (.dwrHeader pol) s = .next { s with openWrite := some ⟨pol, []⟩ } ∧
    (s.openWrite = some ⟨pol, recs⟩ → 1 ≤ line.toNat → line.toNat ≤ 240 → (∀ r ∈ recs, r.1.toNat < line.toNat) →
      exec (.dwrLine line pixels) s = .next { s with openWrite := some ⟨pol, recs ++ [(line, pixels)]⟩ }) ∧
    (s.openWrite = some ⟨pol, recs⟩ → recs ≠ [] → emittable recs → nextBusAnswer s = .ok → ∃ pan,
      exec .dwrTrailer s = .next { s.busAnswered with
        scs := false, openWrite := none, panel := pan,
        busOut := s.busOut ++ bracketed s ([if pol then 0x03 else 0x01] ++
          recs.flatMap (fun r => [r.1] ++ r.2 ++ [0x00]) ++ [0x00]),
        results := s.results ++ [.ok] } ∧
      (∀ r ∈ recs, panelLine pan (r.1.toNat - 1) = some r.2) ∧
      ∀ y, y < 240 → (∀ r ∈ recs, r.1.toNat ≠ y + 1) → panelLine pan y = panelLine s.panel y)

/-- R70, R81: the block never emits a wire line address 0 or 241 to 255, an address twice or out of order, a record or
a trailer of no partial write, or a partial write with no record (k = 0); a part that would is refused and nothing is
performed (U12). Ascending order is the spec's own flagged decision D15, and so the model's choice (log 15); that the
parts are steps is too (logs 1 and 11). -/
def Obligations.NeverEmittedPartsAreRefused : Prop :=
  ∀ (s : State) (pol : Bool) (line : Byte) (pixels : List Byte) (recs : List LineRecord),
    (s.openWrite = none → exec (.dwrLine line pixels) s = .refused (.neverEmitted .noHeader) ∧
      exec .dwrTrailer s = .refused (.neverEmitted .noHeader)) ∧
    (s.openWrite = some ⟨pol, []⟩ → exec .dwrTrailer s = .refused (.neverEmitted .noLines)) ∧
    (s.openWrite = some ⟨pol, recs⟩ → line.toNat = 0 ∨ 241 ≤ line.toNat →
      exec (.dwrLine line pixels) s = .refused (.neverEmitted (.lineAddress line))) ∧
    (s.openWrite = some ⟨pol, recs⟩ → 1 ≤ line.toNat → line.toNat ≤ 240 → (∃ r ∈ recs, line.toNat ≤ r.1.toNat) →
      exec (.dwrLine line pixels) s = .refused (.neverEmitted (.lineOrder line)))

/-- Put together from the dirty lines' records, a partial write does exactly what FLUSH does, whatever the bus answers,
but for P and DIRTY: the parts put together are the format (R70, R71, R163, R164). What a part does as a step is the
model's choice (logs 1 and 11), and so is the ascending order of the records (D15, log 15). -/
def Obligations.PartsTogetherAreTheFlush : Prop :=
  ∀ s t : State, s.dirty ≠ 0#240 → exec .flush s = .next t →
    runInstrs ([.dwrHeader s.p] ++
      ((List.range 240).filter (dirtyBit s.dirty)).map (fun y => .dwrLine (BitVec.ofNat 8 (y + 1)) (fbLine s.fb y)) ++
      [.dwrTrailer]) s = { t with p := s.p, dirty := s.dirty, openWrite := none }
end

