-- ==== Sys2Proof/Laws/State.lean ====
section
/-! SUPPORT. What each named update of the state does to each field: one simp lemma per field per update. -/

namespace Sys2Proof.Machine

section SimpleUpdates

variable (s : State)

@[simp] theorem State.finish_devAddr (r : OpResult) : (s.finish r).devAddr = s.devAddr := rfl
@[simp] theorem State.finish_p (r : OpResult) : (s.finish r).p = s.p := rfl
@[simp] theorem State.finish_scs (r : OpResult) : (s.finish r).scs = s.scs := rfl
@[simp] theorem State.finish_fb (r : OpResult) : (s.finish r).fb = s.fb := rfl
@[simp] theorem State.finish_dirty (r : OpResult) : (s.finish r).dirty = s.dirty := rfl
@[simp] theorem State.finish_panel (r : OpResult) : (s.finish r).panel = s.panel := rfl
@[simp] theorem State.finish_openWrite (r : OpResult) : (s.finish r).openWrite = s.openWrite := rfl
@[simp] theorem State.finish_hostCalls (r : OpResult) : (s.finish r).hostCalls = s.hostCalls := rfl
@[simp] theorem State.finish_crossings (r : OpResult) : (s.finish r).crossings = s.crossings := rfl
@[simp] theorem State.finish_serialRx (r : OpResult) : (s.finish r).serialRx = s.serialRx := rfl
@[simp] theorem State.finish_serWriteScript (r : OpResult) : (s.finish r).serWriteScript = s.serWriteScript := rfl
@[simp] theorem State.finish_busScript (r : OpResult) : (s.finish r).busScript = s.busScript := rfl
@[simp] theorem State.finish_serDraws (r : OpResult) : (s.finish r).serDraws = s.serDraws := rfl
@[simp] theorem State.finish_busDraws (r : OpResult) : (s.finish r).busDraws = s.busDraws := rfl
@[simp] theorem State.finish_results (r : OpResult) : (s.finish r).results = s.results ++ [r] := rfl
@[simp] theorem State.finish_serialOut (r : OpResult) : (s.finish r).serialOut = s.serialOut := rfl
@[simp] theorem State.finish_busOut (r : OpResult) : (s.finish r).busOut = s.busOut := rfl
@[simp] theorem State.finish_logOut (r : OpResult) : (s.finish r).logOut = s.logOut := rfl

@[simp] theorem State.raise_devAddr (k : ErrorKind) : (s.raise k).devAddr = s.devAddr := rfl
@[simp] theorem State.raise_p (k : ErrorKind) : (s.raise k).p = s.p := rfl
@[simp] theorem State.raise_scs (k : ErrorKind) : (s.raise k).scs = s.scs := rfl
@[simp] theorem State.raise_fb (k : ErrorKind) : (s.raise k).fb = s.fb := rfl
@[simp] theorem State.raise_dirty (k : ErrorKind) : (s.raise k).dirty = s.dirty := rfl
@[simp] theorem State.raise_panel (k : ErrorKind) : (s.raise k).panel = s.panel := rfl
@[simp] theorem State.raise_openWrite (k : ErrorKind) : (s.raise k).openWrite = s.openWrite := rfl
@[simp] theorem State.raise_hostCalls (k : ErrorKind) : (s.raise k).hostCalls = s.hostCalls := rfl
@[simp] theorem State.raise_crossings (k : ErrorKind) : (s.raise k).crossings = s.crossings := rfl
@[simp] theorem State.raise_serialRx (k : ErrorKind) : (s.raise k).serialRx = s.serialRx := rfl
@[simp] theorem State.raise_serWriteScript (k : ErrorKind) : (s.raise k).serWriteScript = s.serWriteScript := rfl
@[simp] theorem State.raise_busScript (k : ErrorKind) : (s.raise k).busScript = s.busScript := rfl
@[simp] theorem State.raise_serDraws (k : ErrorKind) : (s.raise k).serDraws = s.serDraws := rfl
@[simp] theorem State.raise_busDraws (k : ErrorKind) : (s.raise k).busDraws = s.busDraws := rfl
@[simp] theorem State.raise_results (k : ErrorKind) : (s.raise k).results = s.results ++ [.err k] := rfl
@[simp] theorem State.raise_serialOut (k : ErrorKind) : (s.raise k).serialOut = s.serialOut := rfl
@[simp] theorem State.raise_busOut (k : ErrorKind) : (s.raise k).busOut = s.busOut := rfl
@[simp] theorem State.raise_logOut (k : ErrorKind) : (s.raise k).logOut = s.logOut := rfl

@[simp] theorem State.setDevAddr_devAddr (a : Byte) : (s.setDevAddr a).devAddr = a := rfl
@[simp] theorem State.setDevAddr_p (a : Byte) : (s.setDevAddr a).p = s.p := rfl
@[simp] theorem State.setDevAddr_scs (a : Byte) : (s.setDevAddr a).scs = s.scs := rfl
@[simp] theorem State.setDevAddr_fb (a : Byte) : (s.setDevAddr a).fb = s.fb := rfl
@[simp] theorem State.setDevAddr_dirty (a : Byte) : (s.setDevAddr a).dirty = s.dirty := rfl
@[simp] theorem State.setDevAddr_panel (a : Byte) : (s.setDevAddr a).panel = s.panel := rfl
@[simp] theorem State.setDevAddr_openWrite (a : Byte) : (s.setDevAddr a).openWrite = s.openWrite := rfl
@[simp] theorem State.setDevAddr_hostCalls (a : Byte) : (s.setDevAddr a).hostCalls = s.hostCalls := rfl
@[simp] theorem State.setDevAddr_crossings (a : Byte) : (s.setDevAddr a).crossings = s.crossings := rfl
@[simp] theorem State.setDevAddr_serialRx (a : Byte) : (s.setDevAddr a).serialRx = s.serialRx := rfl
@[simp] theorem State.setDevAddr_serWriteScript (a : Byte) : (s.setDevAddr a).serWriteScript = s.serWriteScript := rfl
@[simp] theorem State.setDevAddr_busScript (a : Byte) : (s.setDevAddr a).busScript = s.busScript := rfl
@[simp] theorem State.setDevAddr_serDraws (a : Byte) : (s.setDevAddr a).serDraws = s.serDraws := rfl
@[simp] theorem State.setDevAddr_busDraws (a : Byte) : (s.setDevAddr a).busDraws = s.busDraws := rfl
@[simp] theorem State.setDevAddr_results (a : Byte) : (s.setDevAddr a).results = s.results := rfl
@[simp] theorem State.setDevAddr_serialOut (a : Byte) : (s.setDevAddr a).serialOut = s.serialOut := rfl
@[simp] theorem State.setDevAddr_busOut (a : Byte) : (s.setDevAddr a).busOut = s.busOut := rfl
@[simp] theorem State.setDevAddr_logOut (a : Byte) : (s.setDevAddr a).logOut = s.logOut := rfl

@[simp] theorem State.togglePolarity_devAddr : s.togglePolarity.devAddr = s.devAddr := rfl
@[simp] theorem State.togglePolarity_p : s.togglePolarity.p = flipPolarity s.p := rfl
@[simp] theorem State.togglePolarity_scs : s.togglePolarity.scs = s.scs := rfl
@[simp] theorem State.togglePolarity_fb : s.togglePolarity.fb = s.fb := rfl
@[simp] theorem State.togglePolarity_dirty : s.togglePolarity.dirty = s.dirty := rfl
@[simp] theorem State.togglePolarity_panel : s.togglePolarity.panel = s.panel := rfl
@[simp] theorem State.togglePolarity_openWrite : s.togglePolarity.openWrite = s.openWrite := rfl
@[simp] theorem State.togglePolarity_hostCalls : s.togglePolarity.hostCalls = s.hostCalls := rfl
@[simp] theorem State.togglePolarity_crossings : s.togglePolarity.crossings = s.crossings := rfl
@[simp] theorem State.togglePolarity_serialRx : s.togglePolarity.serialRx = s.serialRx := rfl
@[simp] theorem State.togglePolarity_serWriteScript : s.togglePolarity.serWriteScript = s.serWriteScript := rfl
@[simp] theorem State.togglePolarity_busScript : s.togglePolarity.busScript = s.busScript := rfl
@[simp] theorem State.togglePolarity_serDraws : s.togglePolarity.serDraws = s.serDraws := rfl
@[simp] theorem State.togglePolarity_busDraws : s.togglePolarity.busDraws = s.busDraws := rfl
@[simp] theorem State.togglePolarity_results : s.togglePolarity.results = s.results := rfl
@[simp] theorem State.togglePolarity_serialOut : s.togglePolarity.serialOut = s.serialOut := rfl
@[simp] theorem State.togglePolarity_busOut : s.togglePolarity.busOut = s.busOut := rfl
@[simp] theorem State.togglePolarity_logOut : s.togglePolarity.logOut = s.logOut := rfl

@[simp] theorem State.setDirty_devAddr (d : BitVec 240) : (s.setDirty d).devAddr = s.devAddr := rfl
@[simp] theorem State.setDirty_p (d : BitVec 240) : (s.setDirty d).p = s.p := rfl
@[simp] theorem State.setDirty_scs (d : BitVec 240) : (s.setDirty d).scs = s.scs := rfl
@[simp] theorem State.setDirty_fb (d : BitVec 240) : (s.setDirty d).fb = s.fb := rfl
@[simp] theorem State.setDirty_dirty (d : BitVec 240) : (s.setDirty d).dirty = d := rfl
@[simp] theorem State.setDirty_panel (d : BitVec 240) : (s.setDirty d).panel = s.panel := rfl
@[simp] theorem State.setDirty_openWrite (d : BitVec 240) : (s.setDirty d).openWrite = s.openWrite := rfl
@[simp] theorem State.setDirty_hostCalls (d : BitVec 240) : (s.setDirty d).hostCalls = s.hostCalls := rfl
@[simp] theorem State.setDirty_crossings (d : BitVec 240) : (s.setDirty d).crossings = s.crossings := rfl
@[simp] theorem State.setDirty_serialRx (d : BitVec 240) : (s.setDirty d).serialRx = s.serialRx := rfl
@[simp] theorem State.setDirty_serWriteScript (d : BitVec 240) : (s.setDirty d).serWriteScript = s.serWriteScript := rfl
@[simp] theorem State.setDirty_busScript (d : BitVec 240) : (s.setDirty d).busScript = s.busScript := rfl
@[simp] theorem State.setDirty_serDraws (d : BitVec 240) : (s.setDirty d).serDraws = s.serDraws := rfl
@[simp] theorem State.setDirty_busDraws (d : BitVec 240) : (s.setDirty d).busDraws = s.busDraws := rfl
@[simp] theorem State.setDirty_results (d : BitVec 240) : (s.setDirty d).results = s.results := rfl
@[simp] theorem State.setDirty_serialOut (d : BitVec 240) : (s.setDirty d).serialOut = s.serialOut := rfl
@[simp] theorem State.setDirty_busOut (d : BitVec 240) : (s.setDirty d).busOut = s.busOut := rfl
@[simp] theorem State.setDirty_logOut (d : BitVec 240) : (s.setDirty d).logOut = s.logOut := rfl

@[simp] theorem State.setFb_devAddr (m : Memory) : (s.setFb m).devAddr = s.devAddr := rfl
@[simp] theorem State.setFb_p (m : Memory) : (s.setFb m).p = s.p := rfl
@[simp] theorem State.setFb_scs (m : Memory) : (s.setFb m).scs = s.scs := rfl
@[simp] theorem State.setFb_fb (m : Memory) : (s.setFb m).fb = m := rfl
@[simp] theorem State.setFb_dirty (m : Memory) : (s.setFb m).dirty = s.dirty := rfl
@[simp] theorem State.setFb_panel (m : Memory) : (s.setFb m).panel = s.panel := rfl
@[simp] theorem State.setFb_openWrite (m : Memory) : (s.setFb m).openWrite = s.openWrite := rfl
@[simp] theorem State.setFb_hostCalls (m : Memory) : (s.setFb m).hostCalls = s.hostCalls := rfl
@[simp] theorem State.setFb_crossings (m : Memory) : (s.setFb m).crossings = s.crossings := rfl
@[simp] theorem State.setFb_serialRx (m : Memory) : (s.setFb m).serialRx = s.serialRx := rfl
@[simp] theorem State.setFb_serWriteScript (m : Memory) : (s.setFb m).serWriteScript = s.serWriteScript := rfl
@[simp] theorem State.setFb_busScript (m : Memory) : (s.setFb m).busScript = s.busScript := rfl
@[simp] theorem State.setFb_serDraws (m : Memory) : (s.setFb m).serDraws = s.serDraws := rfl
@[simp] theorem State.setFb_busDraws (m : Memory) : (s.setFb m).busDraws = s.busDraws := rfl
@[simp] theorem State.setFb_results (m : Memory) : (s.setFb m).results = s.results := rfl
@[simp] theorem State.setFb_serialOut (m : Memory) : (s.setFb m).serialOut = s.serialOut := rfl
@[simp] theorem State.setFb_busOut (m : Memory) : (s.setFb m).busOut = s.busOut := rfl
@[simp] theorem State.setFb_logOut (m : Memory) : (s.setFb m).logOut = s.logOut := rfl

@[simp] theorem State.setPanel_devAddr (pan : Panel) : (s.setPanel pan).devAddr = s.devAddr := rfl
@[simp] theorem State.setPanel_p (pan : Panel) : (s.setPanel pan).p = s.p := rfl
@[simp] theorem State.setPanel_scs (pan : Panel) : (s.setPanel pan).scs = s.scs := rfl
@[simp] theorem State.setPanel_fb (pan : Panel) : (s.setPanel pan).fb = s.fb := rfl
@[simp] theorem State.setPanel_dirty (pan : Panel) : (s.setPanel pan).dirty = s.dirty := rfl
@[simp] theorem State.setPanel_panel (pan : Panel) : (s.setPanel pan).panel = pan := rfl
@[simp] theorem State.setPanel_openWrite (pan : Panel) : (s.setPanel pan).openWrite = s.openWrite := rfl
@[simp] theorem State.setPanel_hostCalls (pan : Panel) : (s.setPanel pan).hostCalls = s.hostCalls := rfl
@[simp] theorem State.setPanel_crossings (pan : Panel) : (s.setPanel pan).crossings = s.crossings := rfl
@[simp] theorem State.setPanel_serialRx (pan : Panel) : (s.setPanel pan).serialRx = s.serialRx := rfl
@[simp] theorem State.setPanel_serWriteScript (pan : Panel) : (s.setPanel pan).serWriteScript = s.serWriteScript := rfl
@[simp] theorem State.setPanel_busScript (pan : Panel) : (s.setPanel pan).busScript = s.busScript := rfl
@[simp] theorem State.setPanel_serDraws (pan : Panel) : (s.setPanel pan).serDraws = s.serDraws := rfl
@[simp] theorem State.setPanel_busDraws (pan : Panel) : (s.setPanel pan).busDraws = s.busDraws := rfl
@[simp] theorem State.setPanel_results (pan : Panel) : (s.setPanel pan).results = s.results := rfl
@[simp] theorem State.setPanel_serialOut (pan : Panel) : (s.setPanel pan).serialOut = s.serialOut := rfl
@[simp] theorem State.setPanel_busOut (pan : Panel) : (s.setPanel pan).busOut = s.busOut := rfl
@[simp] theorem State.setPanel_logOut (pan : Panel) : (s.setPanel pan).logOut = s.logOut := rfl

@[simp] theorem State.setOpenWrite_devAddr (w : Option PartialWrite) : (s.setOpenWrite w).devAddr = s.devAddr := rfl
@[simp] theorem State.setOpenWrite_p (w : Option PartialWrite) : (s.setOpenWrite w).p = s.p := rfl
@[simp] theorem State.setOpenWrite_scs (w : Option PartialWrite) : (s.setOpenWrite w).scs = s.scs := rfl
@[simp] theorem State.setOpenWrite_fb (w : Option PartialWrite) : (s.setOpenWrite w).fb = s.fb := rfl
@[simp] theorem State.setOpenWrite_dirty (w : Option PartialWrite) : (s.setOpenWrite w).dirty = s.dirty := rfl
@[simp] theorem State.setOpenWrite_panel (w : Option PartialWrite) : (s.setOpenWrite w).panel = s.panel := rfl
@[simp] theorem State.setOpenWrite_openWrite (w : Option PartialWrite) : (s.setOpenWrite w).openWrite = w := rfl
@[simp] theorem State.setOpenWrite_hostCalls (w : Option PartialWrite) : (s.setOpenWrite w).hostCalls = s.hostCalls := rfl
@[simp] theorem State.setOpenWrite_crossings (w : Option PartialWrite) : (s.setOpenWrite w).crossings = s.crossings := rfl
@[simp] theorem State.setOpenWrite_serialRx (w : Option PartialWrite) : (s.setOpenWrite w).serialRx = s.serialRx := rfl
@[simp] theorem State.setOpenWrite_serWriteScript (w : Option PartialWrite) : (s.setOpenWrite w).serWriteScript = s.serWriteScript := rfl
@[simp] theorem State.setOpenWrite_busScript (w : Option PartialWrite) : (s.setOpenWrite w).busScript = s.busScript := rfl
@[simp] theorem State.setOpenWrite_serDraws (w : Option PartialWrite) : (s.setOpenWrite w).serDraws = s.serDraws := rfl
@[simp] theorem State.setOpenWrite_busDraws (w : Option PartialWrite) : (s.setOpenWrite w).busDraws = s.busDraws := rfl
@[simp] theorem State.setOpenWrite_results (w : Option PartialWrite) : (s.setOpenWrite w).results = s.results := rfl
@[simp] theorem State.setOpenWrite_serialOut (w : Option PartialWrite) : (s.setOpenWrite w).serialOut = s.serialOut := rfl
@[simp] theorem State.setOpenWrite_busOut (w : Option PartialWrite) : (s.setOpenWrite w).busOut = s.busOut := rfl
@[simp] theorem State.setOpenWrite_logOut (w : Option PartialWrite) : (s.setOpenWrite w).logOut = s.logOut := rfl

@[simp] theorem State.setSerialRx_devAddr (q : List RxEvent) : (s.setSerialRx q).devAddr = s.devAddr := rfl
@[simp] theorem State.setSerialRx_p (q : List RxEvent) : (s.setSerialRx q).p = s.p := rfl
@[simp] theorem State.setSerialRx_scs (q : List RxEvent) : (s.setSerialRx q).scs = s.scs := rfl
@[simp] theorem State.setSerialRx_fb (q : List RxEvent) : (s.setSerialRx q).fb = s.fb := rfl
@[simp] theorem State.setSerialRx_dirty (q : List RxEvent) : (s.setSerialRx q).dirty = s.dirty := rfl
@[simp] theorem State.setSerialRx_panel (q : List RxEvent) : (s.setSerialRx q).panel = s.panel := rfl
@[simp] theorem State.setSerialRx_openWrite (q : List RxEvent) : (s.setSerialRx q).openWrite = s.openWrite := rfl
@[simp] theorem State.setSerialRx_hostCalls (q : List RxEvent) : (s.setSerialRx q).hostCalls = s.hostCalls := rfl
@[simp] theorem State.setSerialRx_crossings (q : List RxEvent) : (s.setSerialRx q).crossings = s.crossings := rfl
@[simp] theorem State.setSerialRx_serialRx (q : List RxEvent) : (s.setSerialRx q).serialRx = q := rfl
@[simp] theorem State.setSerialRx_serWriteScript (q : List RxEvent) : (s.setSerialRx q).serWriteScript = s.serWriteScript := rfl
@[simp] theorem State.setSerialRx_busScript (q : List RxEvent) : (s.setSerialRx q).busScript = s.busScript := rfl
@[simp] theorem State.setSerialRx_serDraws (q : List RxEvent) : (s.setSerialRx q).serDraws = s.serDraws := rfl
@[simp] theorem State.setSerialRx_busDraws (q : List RxEvent) : (s.setSerialRx q).busDraws = s.busDraws := rfl
@[simp] theorem State.setSerialRx_results (q : List RxEvent) : (s.setSerialRx q).results = s.results := rfl
@[simp] theorem State.setSerialRx_serialOut (q : List RxEvent) : (s.setSerialRx q).serialOut = s.serialOut := rfl
@[simp] theorem State.setSerialRx_busOut (q : List RxEvent) : (s.setSerialRx q).busOut = s.busOut := rfl
@[simp] theorem State.setSerialRx_logOut (q : List RxEvent) : (s.setSerialRx q).logOut = s.logOut := rfl

@[simp] theorem State.logLines_devAddr (lines : List (List Byte)) : (s.logLines lines).devAddr = s.devAddr := rfl
@[simp] theorem State.logLines_p (lines : List (List Byte)) : (s.logLines lines).p = s.p := rfl
@[simp] theorem State.logLines_scs (lines : List (List Byte)) : (s.logLines lines).scs = s.scs := rfl
@[simp] theorem State.logLines_fb (lines : List (List Byte)) : (s.logLines lines).fb = s.fb := rfl
@[simp] theorem State.logLines_dirty (lines : List (List Byte)) : (s.logLines lines).dirty = s.dirty := rfl
@[simp] theorem State.logLines_panel (lines : List (List Byte)) : (s.logLines lines).panel = s.panel := rfl
@[simp] theorem State.logLines_openWrite (lines : List (List Byte)) : (s.logLines lines).openWrite = s.openWrite := rfl
@[simp] theorem State.logLines_hostCalls (lines : List (List Byte)) : (s.logLines lines).hostCalls = s.hostCalls := rfl
@[simp] theorem State.logLines_crossings (lines : List (List Byte)) : (s.logLines lines).crossings = s.crossings := rfl
@[simp] theorem State.logLines_serialRx (lines : List (List Byte)) : (s.logLines lines).serialRx = s.serialRx := rfl
@[simp] theorem State.logLines_serWriteScript (lines : List (List Byte)) : (s.logLines lines).serWriteScript = s.serWriteScript := rfl
@[simp] theorem State.logLines_busScript (lines : List (List Byte)) : (s.logLines lines).busScript = s.busScript := rfl
@[simp] theorem State.logLines_serDraws (lines : List (List Byte)) : (s.logLines lines).serDraws = s.serDraws := rfl
@[simp] theorem State.logLines_busDraws (lines : List (List Byte)) : (s.logLines lines).busDraws = s.busDraws := rfl
@[simp] theorem State.logLines_results (lines : List (List Byte)) : (s.logLines lines).results = s.results := rfl
@[simp] theorem State.logLines_serialOut (lines : List (List Byte)) : (s.logLines lines).serialOut = s.serialOut := rfl
@[simp] theorem State.logLines_busOut (lines : List (List Byte)) : (s.logLines lines).busOut = s.busOut := rfl
@[simp] theorem State.logLines_logOut (lines : List (List Byte)) : (s.logLines lines).logOut = s.logOut ++ lines := rfl

@[simp] theorem State.receive_devAddr (bytes : List Byte) : (s.receive bytes).devAddr = s.devAddr := rfl
@[simp] theorem State.receive_p (bytes : List Byte) : (s.receive bytes).p = s.p := rfl
@[simp] theorem State.receive_scs (bytes : List Byte) : (s.receive bytes).scs = s.scs := rfl
@[simp] theorem State.receive_fb (bytes : List Byte) : (s.receive bytes).fb = s.fb := rfl
@[simp] theorem State.receive_dirty (bytes : List Byte) : (s.receive bytes).dirty = s.dirty := rfl
@[simp] theorem State.receive_panel (bytes : List Byte) : (s.receive bytes).panel = s.panel := rfl
@[simp] theorem State.receive_openWrite (bytes : List Byte) : (s.receive bytes).openWrite = s.openWrite := rfl
@[simp] theorem State.receive_hostCalls (bytes : List Byte) : (s.receive bytes).hostCalls = s.hostCalls := rfl
@[simp] theorem State.receive_crossings (bytes : List Byte) : (s.receive bytes).crossings = s.crossings := rfl
@[simp] theorem State.receive_serialRx (bytes : List Byte) : (s.receive bytes).serialRx = s.serialRx ++ [.data bytes] := rfl
@[simp] theorem State.receive_serWriteScript (bytes : List Byte) : (s.receive bytes).serWriteScript = s.serWriteScript := rfl
@[simp] theorem State.receive_busScript (bytes : List Byte) : (s.receive bytes).busScript = s.busScript := rfl
@[simp] theorem State.receive_serDraws (bytes : List Byte) : (s.receive bytes).serDraws = s.serDraws := rfl
@[simp] theorem State.receive_busDraws (bytes : List Byte) : (s.receive bytes).busDraws = s.busDraws := rfl
@[simp] theorem State.receive_results (bytes : List Byte) : (s.receive bytes).results = s.results := rfl
@[simp] theorem State.receive_serialOut (bytes : List Byte) : (s.receive bytes).serialOut = s.serialOut := rfl
@[simp] theorem State.receive_busOut (bytes : List Byte) : (s.receive bytes).busOut = s.busOut := rfl
@[simp] theorem State.receive_logOut (bytes : List Byte) : (s.receive bytes).logOut = s.logOut := rfl

@[simp] theorem State.serAnswered_devAddr : s.serAnswered.devAddr = s.devAddr := rfl
@[simp] theorem State.serAnswered_p : s.serAnswered.p = s.p := rfl
@[simp] theorem State.serAnswered_scs : s.serAnswered.scs = s.scs := rfl
@[simp] theorem State.serAnswered_fb : s.serAnswered.fb = s.fb := rfl
@[simp] theorem State.serAnswered_dirty : s.serAnswered.dirty = s.dirty := rfl
@[simp] theorem State.serAnswered_panel : s.serAnswered.panel = s.panel := rfl
@[simp] theorem State.serAnswered_openWrite : s.serAnswered.openWrite = s.openWrite := rfl
@[simp] theorem State.serAnswered_hostCalls : s.serAnswered.hostCalls = s.hostCalls := rfl
@[simp] theorem State.serAnswered_crossings : s.serAnswered.crossings = s.crossings := rfl
@[simp] theorem State.serAnswered_serialRx : s.serAnswered.serialRx = s.serialRx := rfl
@[simp] theorem State.serAnswered_serWriteScript : s.serAnswered.serWriteScript = s.serWriteScript.tail := rfl
@[simp] theorem State.serAnswered_busScript : s.serAnswered.busScript = s.busScript := rfl
@[simp] theorem State.serAnswered_serDraws : s.serAnswered.serDraws = if s.serWriteScript = [] then s.serDraws + 1 else s.serDraws := rfl
@[simp] theorem State.serAnswered_busDraws : s.serAnswered.busDraws = s.busDraws := rfl
@[simp] theorem State.serAnswered_results : s.serAnswered.results = s.results := rfl
@[simp] theorem State.serAnswered_serialOut : s.serAnswered.serialOut = s.serialOut := rfl
@[simp] theorem State.serAnswered_busOut : s.serAnswered.busOut = s.busOut := rfl
@[simp] theorem State.serAnswered_logOut : s.serAnswered.logOut = s.logOut := rfl

@[simp] theorem State.sendSerial_devAddr (bytes : List Byte) : (s.sendSerial bytes).devAddr = s.devAddr := rfl
@[simp] theorem State.sendSerial_p (bytes : List Byte) : (s.sendSerial bytes).p = s.p := rfl
@[simp] theorem State.sendSerial_scs (bytes : List Byte) : (s.sendSerial bytes).scs = s.scs := rfl
@[simp] theorem State.sendSerial_fb (bytes : List Byte) : (s.sendSerial bytes).fb = s.fb := rfl
@[simp] theorem State.sendSerial_dirty (bytes : List Byte) : (s.sendSerial bytes).dirty = s.dirty := rfl
@[simp] theorem State.sendSerial_panel (bytes : List Byte) : (s.sendSerial bytes).panel = s.panel := rfl
@[simp] theorem State.sendSerial_openWrite (bytes : List Byte) : (s.sendSerial bytes).openWrite = s.openWrite := rfl
@[simp] theorem State.sendSerial_hostCalls (bytes : List Byte) : (s.sendSerial bytes).hostCalls = s.hostCalls := rfl
@[simp] theorem State.sendSerial_crossings (bytes : List Byte) : (s.sendSerial bytes).crossings = s.crossings := rfl
@[simp] theorem State.sendSerial_serialRx (bytes : List Byte) : (s.sendSerial bytes).serialRx = s.serialRx := rfl
@[simp] theorem State.sendSerial_serWriteScript (bytes : List Byte) : (s.sendSerial bytes).serWriteScript = s.serWriteScript := rfl
@[simp] theorem State.sendSerial_busScript (bytes : List Byte) : (s.sendSerial bytes).busScript = s.busScript := rfl
@[simp] theorem State.sendSerial_serDraws (bytes : List Byte) : (s.sendSerial bytes).serDraws = s.serDraws := rfl
@[simp] theorem State.sendSerial_busDraws (bytes : List Byte) : (s.sendSerial bytes).busDraws = s.busDraws := rfl
@[simp] theorem State.sendSerial_results (bytes : List Byte) : (s.sendSerial bytes).results = s.results := rfl
@[simp] theorem State.sendSerial_serialOut (bytes : List Byte) : (s.sendSerial bytes).serialOut = s.serialOut ++ bytes := rfl
@[simp] theorem State.sendSerial_busOut (bytes : List Byte) : (s.sendSerial bytes).busOut = s.busOut := rfl
@[simp] theorem State.sendSerial_logOut (bytes : List Byte) : (s.sendSerial bytes).logOut = s.logOut := rfl

@[simp] theorem State.busAnswered_devAddr : s.busAnswered.devAddr = s.devAddr := rfl
@[simp] theorem State.busAnswered_p : s.busAnswered.p = s.p := rfl
@[simp] theorem State.busAnswered_scs : s.busAnswered.scs = s.scs := rfl
@[simp] theorem State.busAnswered_fb : s.busAnswered.fb = s.fb := rfl
@[simp] theorem State.busAnswered_dirty : s.busAnswered.dirty = s.dirty := rfl
@[simp] theorem State.busAnswered_panel : s.busAnswered.panel = s.panel := rfl
@[simp] theorem State.busAnswered_openWrite : s.busAnswered.openWrite = s.openWrite := rfl
@[simp] theorem State.busAnswered_hostCalls : s.busAnswered.hostCalls = s.hostCalls := rfl
@[simp] theorem State.busAnswered_crossings : s.busAnswered.crossings = s.crossings := rfl
@[simp] theorem State.busAnswered_serialRx : s.busAnswered.serialRx = s.serialRx := rfl
@[simp] theorem State.busAnswered_serWriteScript : s.busAnswered.serWriteScript = s.serWriteScript := rfl
@[simp] theorem State.busAnswered_busScript : s.busAnswered.busScript = s.busScript.tail := rfl
@[simp] theorem State.busAnswered_serDraws : s.busAnswered.serDraws = s.serDraws := rfl
@[simp] theorem State.busAnswered_busDraws : s.busAnswered.busDraws = if s.busScript = [] then s.busDraws + 1 else s.busDraws := rfl
@[simp] theorem State.busAnswered_results : s.busAnswered.results = s.results := rfl
@[simp] theorem State.busAnswered_serialOut : s.busAnswered.serialOut = s.serialOut := rfl
@[simp] theorem State.busAnswered_busOut : s.busAnswered.busOut = s.busOut := rfl
@[simp] theorem State.busAnswered_logOut : s.busAnswered.logOut = s.logOut := rfl

@[simp] theorem State.shiftOut_devAddr (bytes : List Byte) : (s.shiftOut bytes).devAddr = s.devAddr := rfl
@[simp] theorem State.shiftOut_p (bytes : List Byte) : (s.shiftOut bytes).p = s.p := rfl
@[simp] theorem State.shiftOut_scs (bytes : List Byte) : (s.shiftOut bytes).scs = s.scs := rfl
@[simp] theorem State.shiftOut_fb (bytes : List Byte) : (s.shiftOut bytes).fb = s.fb := rfl
@[simp] theorem State.shiftOut_dirty (bytes : List Byte) : (s.shiftOut bytes).dirty = s.dirty := rfl
@[simp] theorem State.shiftOut_panel (bytes : List Byte) : (s.shiftOut bytes).panel = s.panel := rfl
@[simp] theorem State.shiftOut_openWrite (bytes : List Byte) : (s.shiftOut bytes).openWrite = s.openWrite := rfl
@[simp] theorem State.shiftOut_hostCalls (bytes : List Byte) : (s.shiftOut bytes).hostCalls = s.hostCalls := rfl
@[simp] theorem State.shiftOut_crossings (bytes : List Byte) : (s.shiftOut bytes).crossings = s.crossings := rfl
@[simp] theorem State.shiftOut_serialRx (bytes : List Byte) : (s.shiftOut bytes).serialRx = s.serialRx := rfl
@[simp] theorem State.shiftOut_serWriteScript (bytes : List Byte) : (s.shiftOut bytes).serWriteScript = s.serWriteScript := rfl
@[simp] theorem State.shiftOut_busScript (bytes : List Byte) : (s.shiftOut bytes).busScript = s.busScript := rfl
@[simp] theorem State.shiftOut_serDraws (bytes : List Byte) : (s.shiftOut bytes).serDraws = s.serDraws := rfl
@[simp] theorem State.shiftOut_busDraws (bytes : List Byte) : (s.shiftOut bytes).busDraws = s.busDraws := rfl
@[simp] theorem State.shiftOut_results (bytes : List Byte) : (s.shiftOut bytes).results = s.results := rfl
@[simp] theorem State.shiftOut_serialOut (bytes : List Byte) : (s.shiftOut bytes).serialOut = s.serialOut := rfl
@[simp] theorem State.shiftOut_busOut (bytes : List Byte) : (s.shiftOut bytes).busOut = s.busOut ++ bytes.map .byte := rfl
@[simp] theorem State.shiftOut_logOut (bytes : List Byte) : (s.shiftOut bytes).logOut = s.logOut := rfl

end SimpleUpdates

section ConditionalUpdates

variable (s : State)

@[simp] theorem State.csSet_devAddr (b : Bool) : (s.csSet b).devAddr = s.devAddr := by unfold State.csSet; split <;> simp_all
@[simp] theorem State.csSet_p (b : Bool) : (s.csSet b).p = s.p := by unfold State.csSet; split <;> simp_all
@[simp] theorem State.csSet_scs (b : Bool) : (s.csSet b).scs = b := by unfold State.csSet; split <;> simp_all
@[simp] theorem State.csSet_fb (b : Bool) : (s.csSet b).fb = s.fb := by unfold State.csSet; split <;> simp_all
@[simp] theorem State.csSet_dirty (b : Bool) : (s.csSet b).dirty = s.dirty := by unfold State.csSet; split <;> simp_all
@[simp] theorem State.csSet_panel (b : Bool) : (s.csSet b).panel = s.panel := by unfold State.csSet; split <;> simp_all
@[simp] theorem State.csSet_openWrite (b : Bool) : (s.csSet b).openWrite = s.openWrite := by unfold State.csSet; split <;> simp_all
@[simp] theorem State.csSet_hostCalls (b : Bool) : (s.csSet b).hostCalls = s.hostCalls := by unfold State.csSet; split <;> simp_all
@[simp] theorem State.csSet_crossings (b : Bool) : (s.csSet b).crossings = s.crossings := by unfold State.csSet; split <;> simp_all
@[simp] theorem State.csSet_serialRx (b : Bool) : (s.csSet b).serialRx = s.serialRx := by unfold State.csSet; split <;> simp_all
@[simp] theorem State.csSet_serWriteScript (b : Bool) : (s.csSet b).serWriteScript = s.serWriteScript := by unfold State.csSet; split <;> simp_all
@[simp] theorem State.csSet_busScript (b : Bool) : (s.csSet b).busScript = s.busScript := by unfold State.csSet; split <;> simp_all
@[simp] theorem State.csSet_serDraws (b : Bool) : (s.csSet b).serDraws = s.serDraws := by unfold State.csSet; split <;> simp_all
@[simp] theorem State.csSet_busDraws (b : Bool) : (s.csSet b).busDraws = s.busDraws := by unfold State.csSet; split <;> simp_all
@[simp] theorem State.csSet_results (b : Bool) : (s.csSet b).results = s.results := by unfold State.csSet; split <;> simp_all
@[simp] theorem State.csSet_serialOut (b : Bool) : (s.csSet b).serialOut = s.serialOut := by unfold State.csSet; split <;> simp_all
@[simp] theorem State.csSet_logOut (b : Bool) : (s.csSet b).logOut = s.logOut := by unfold State.csSet; split <;> simp_all

@[simp] theorem State.selectUnspecified_devAddr : s.selectUnspecified.devAddr = s.devAddr := by simp [State.selectUnspecified]
@[simp] theorem State.selectUnspecified_p : s.selectUnspecified.p = s.p := by simp [State.selectUnspecified]
@[simp] theorem State.selectUnspecified_scs : s.selectUnspecified.scs = Config.selectAfterFailure s.busDraws := by simp [State.selectUnspecified]
@[simp] theorem State.selectUnspecified_fb : s.selectUnspecified.fb = s.fb := by simp [State.selectUnspecified]
@[simp] theorem State.selectUnspecified_dirty : s.selectUnspecified.dirty = s.dirty := by simp [State.selectUnspecified]
@[simp] theorem State.selectUnspecified_panel : s.selectUnspecified.panel = s.panel := by simp [State.selectUnspecified]
@[simp] theorem State.selectUnspecified_openWrite : s.selectUnspecified.openWrite = s.openWrite := by simp [State.selectUnspecified]
@[simp] theorem State.selectUnspecified_hostCalls : s.selectUnspecified.hostCalls = s.hostCalls := by simp [State.selectUnspecified]
@[simp] theorem State.selectUnspecified_crossings : s.selectUnspecified.crossings = s.crossings := by simp [State.selectUnspecified]
@[simp] theorem State.selectUnspecified_serialRx : s.selectUnspecified.serialRx = s.serialRx := by simp [State.selectUnspecified]
@[simp] theorem State.selectUnspecified_serWriteScript : s.selectUnspecified.serWriteScript = s.serWriteScript := by simp [State.selectUnspecified]
@[simp] theorem State.selectUnspecified_busScript : s.selectUnspecified.busScript = s.busScript := by simp [State.selectUnspecified]
@[simp] theorem State.selectUnspecified_serDraws : s.selectUnspecified.serDraws = s.serDraws := by simp [State.selectUnspecified]
@[simp] theorem State.selectUnspecified_busDraws : s.selectUnspecified.busDraws = s.busDraws + 1 := by simp [State.selectUnspecified]
@[simp] theorem State.selectUnspecified_results : s.selectUnspecified.results = s.results := by simp [State.selectUnspecified]
@[simp] theorem State.selectUnspecified_serialOut : s.selectUnspecified.serialOut = s.serialOut := by simp [State.selectUnspecified]
@[simp] theorem State.selectUnspecified_logOut : s.selectUnspecified.logOut = s.logOut := by simp [State.selectUnspecified]

@[simp] theorem State.paint_devAddr (a y : Nat) (old new : Byte) : (s.paint a y old new).devAddr = s.devAddr := by unfold State.paint; split <;> simp_all
@[simp] theorem State.paint_p (a y : Nat) (old new : Byte) : (s.paint a y old new).p = s.p := by unfold State.paint; split <;> simp_all
@[simp] theorem State.paint_scs (a y : Nat) (old new : Byte) : (s.paint a y old new).scs = s.scs := by unfold State.paint; split <;> simp_all
@[simp] theorem State.paint_panel (a y : Nat) (old new : Byte) : (s.paint a y old new).panel = s.panel := by unfold State.paint; split <;> simp_all
@[simp] theorem State.paint_openWrite (a y : Nat) (old new : Byte) : (s.paint a y old new).openWrite = s.openWrite := by unfold State.paint; split <;> simp_all
@[simp] theorem State.paint_hostCalls (a y : Nat) (old new : Byte) : (s.paint a y old new).hostCalls = s.hostCalls := by unfold State.paint; split <;> simp_all
@[simp] theorem State.paint_crossings (a y : Nat) (old new : Byte) : (s.paint a y old new).crossings = s.crossings := by unfold State.paint; split <;> simp_all
@[simp] theorem State.paint_serialRx (a y : Nat) (old new : Byte) : (s.paint a y old new).serialRx = s.serialRx := by unfold State.paint; split <;> simp_all
@[simp] theorem State.paint_serWriteScript (a y : Nat) (old new : Byte) : (s.paint a y old new).serWriteScript = s.serWriteScript := by unfold State.paint; split <;> simp_all
@[simp] theorem State.paint_busScript (a y : Nat) (old new : Byte) : (s.paint a y old new).busScript = s.busScript := by unfold State.paint; split <;> simp_all
@[simp] theorem State.paint_serDraws (a y : Nat) (old new : Byte) : (s.paint a y old new).serDraws = s.serDraws := by unfold State.paint; split <;> simp_all
@[simp] theorem State.paint_busDraws (a y : Nat) (old new : Byte) : (s.paint a y old new).busDraws = s.busDraws := by unfold State.paint; split <;> simp_all
@[simp] theorem State.paint_results (a y : Nat) (old new : Byte) : (s.paint a y old new).results = s.results := by unfold State.paint; split <;> simp_all
@[simp] theorem State.paint_serialOut (a y : Nat) (old new : Byte) : (s.paint a y old new).serialOut = s.serialOut := by unfold State.paint; split <;> simp_all
@[simp] theorem State.paint_busOut (a y : Nat) (old new : Byte) : (s.paint a y old new).busOut = s.busOut := by unfold State.paint; split <;> simp_all
@[simp] theorem State.paint_logOut (a y : Nat) (old new : Byte) : (s.paint a y old new).logOut = s.logOut := by unfold State.paint; split <;> simp_all

@[simp] theorem State.supplyMore_devAddr (runsDry : Bool) : (s.supplyMore runsDry).devAddr = s.devAddr := by unfold State.supplyMore; split <;> rfl
@[simp] theorem State.supplyMore_p (runsDry : Bool) : (s.supplyMore runsDry).p = s.p := by unfold State.supplyMore; split <;> rfl
@[simp] theorem State.supplyMore_scs (runsDry : Bool) : (s.supplyMore runsDry).scs = s.scs := by unfold State.supplyMore; split <;> rfl
@[simp] theorem State.supplyMore_fb (runsDry : Bool) : (s.supplyMore runsDry).fb = s.fb := by unfold State.supplyMore; split <;> rfl
@[simp] theorem State.supplyMore_dirty (runsDry : Bool) : (s.supplyMore runsDry).dirty = s.dirty := by unfold State.supplyMore; split <;> rfl
@[simp] theorem State.supplyMore_panel (runsDry : Bool) : (s.supplyMore runsDry).panel = s.panel := by unfold State.supplyMore; split <;> rfl
@[simp] theorem State.supplyMore_openWrite (runsDry : Bool) : (s.supplyMore runsDry).openWrite = s.openWrite := by unfold State.supplyMore; split <;> rfl
@[simp] theorem State.supplyMore_hostCalls (runsDry : Bool) : (s.supplyMore runsDry).hostCalls = s.hostCalls := by unfold State.supplyMore; split <;> rfl
@[simp] theorem State.supplyMore_crossings (runsDry : Bool) : (s.supplyMore runsDry).crossings = s.crossings := by unfold State.supplyMore; split <;> rfl
@[simp] theorem State.supplyMore_serWriteScript (runsDry : Bool) : (s.supplyMore runsDry).serWriteScript = s.serWriteScript := by unfold State.supplyMore; split <;> rfl
@[simp] theorem State.supplyMore_busScript (runsDry : Bool) : (s.supplyMore runsDry).busScript = s.busScript := by unfold State.supplyMore; split <;> rfl
@[simp] theorem State.supplyMore_busDraws (runsDry : Bool) : (s.supplyMore runsDry).busDraws = s.busDraws := by unfold State.supplyMore; split <;> rfl
@[simp] theorem State.supplyMore_results (runsDry : Bool) : (s.supplyMore runsDry).results = s.results := by unfold State.supplyMore; split <;> rfl
@[simp] theorem State.supplyMore_serialOut (runsDry : Bool) : (s.supplyMore runsDry).serialOut = s.serialOut := by unfold State.supplyMore; split <;> rfl
@[simp] theorem State.supplyMore_busOut (runsDry : Bool) : (s.supplyMore runsDry).busOut = s.busOut := by unfold State.supplyMore; split <;> rfl
@[simp] theorem State.supplyMore_logOut (runsDry : Bool) : (s.supplyMore runsDry).logOut = s.logOut := by unfold State.supplyMore; split <;> rfl

end ConditionalUpdates

end Sys2Proof.Machine
end

