-- ==== Sys2Proof/Laws/Bus.lean ====
section
/-! SUPPORT. The display bus, TRANSACT and the ghost panel: what each can do, said once. -/

namespace Sys2Proof.Machine

/-! ## BusWrite and CsSet -/

/-- A settled answer is the next one. -/
theorem nextBusAnswer_of_script {s : State} {a : BusAnswer} {rest : List BusAnswer} (h : s.busScript = a :: rest) :
    nextBusAnswer s = a := by
  unfold nextBusAnswer
  rw [h]

theorem busWrite_of_ok {s : State} (h : nextBusAnswer s = .ok) (bytes : List Byte) :
    busWrite bytes s = (.ok, s.busAnswered.shiftOut bytes) := by
  unfold busWrite
  rw [h]

theorem busWrite_of_fail {s : State} {e : BusError} {n : Nat} (h : nextBusAnswer s = .fail e n) (bytes : List Byte) :
    busWrite bytes s = (.fail e n, s.busAnswered.shiftOut (bytes.take n)) := by
  unfold busWrite
  rw [h]

/-- A write to the bus answers the next answer and shows bytes on the bus; nothing else changes. -/
theorem busWrite_spec (bytes : List Byte) (s : State) :
    ∃ sent, busWrite bytes s = (nextBusAnswer s, s.busAnswered.shiftOut sent) := by
  cases h : nextBusAnswer s with
  | ok => exact ⟨bytes, busWrite_of_ok h bytes⟩
  | fail e n => exact ⟨bytes.take n, busWrite_of_fail h bytes⟩

theorem csSet_eq (s : State) (b : Bool) :
    s.csSet b = { s with scs := b, busOut := s.busOut ++ (if s.scs = b then [] else [.select b]) } := by
  unfold State.csSet
  split
  · rename_i h
    rw [← h, List.append_nil]
  · rfl

@[simp] theorem csSet_busOut (s : State) (b : Bool) :
    (s.csSet b).busOut = s.busOut ++ (if s.scs = b then [] else [.select b]) := by rw [csSet_eq]

theorem selectUnspecified_eq (s : State) :
    s.selectUnspecified = { s with
      scs := Config.selectAfterFailure s.busDraws, busDraws := s.busDraws + 1,
      busOut := s.busOut ++ (if s.scs = Config.selectAfterFailure s.busDraws then []
        else [.select (Config.selectAfterFailure s.busDraws)]) } := by
  unfold State.selectUnspecified
  rw [csSet_eq]

/-- After a failure with the line asserted it stays so or is released. -/
theorem selectUnspecified_of_selected {s : State} (h : s.scs = true) :
    ∃ released : Bool, s.selectUnspecified = { s with
      scs := !released, busDraws := s.busDraws + 1,
      busOut := s.busOut ++ (if released then [.select false] else []) } := by
  refine ⟨!Config.selectAfterFailure s.busDraws, ?_⟩
  rw [selectUnspecified_eq, h]
  cases hl : Config.selectAfterFailure s.busDraws <;> simp

/-- The answer does not depend on the select line, nor on anything but the bus. -/
theorem nextBusAnswer_congr {s t : State} (h : t.busScript = s.busScript) (hd : t.busDraws = s.busDraws) :
    nextBusAnswer t = nextBusAnswer s := by
  unfold nextBusAnswer
  rw [h, hd]

@[simp] theorem nextBusAnswer_csSet (s : State) (b : Bool) : nextBusAnswer (s.csSet b) = nextBusAnswer s :=
  nextBusAnswer_congr (State.csSet_busScript s b) (State.csSet_busDraws s b)

@[simp] theorem nextBusAnswer_setOpenWrite (s : State) (w : Option PartialWrite) :
    nextBusAnswer (s.setOpenWrite w) = nextBusAnswer s := nextBusAnswer_congr rfl rfl

/-! ## TRANSACT -/

/-- A transaction that succeeds: the bytes with select asserted around them. -/
theorem transact_of_ok {s : State} (h : nextBusAnswer s = .ok) (bytes : List Byte) :
    transact bytes s = (none, { s.busAnswered with scs := false, busOut := s.busOut ++ bracketed s bytes }) := by
  unfold transact
  rw [busWrite_of_ok (by simpa using h)]
  simp only [csSet_eq, bracketed, State.shiftOut, State.busAnswered]
  cases s.scs <;> simp

/-- A transaction that fails: its error, a prefix of the bytes, and the select line left asserted or released. -/
theorem transact_of_fail {s : State} {e : BusError} {n : Nat} (h : nextBusAnswer s = .fail e n) (bytes : List Byte) :
    ∃ released : Bool, transact bytes s = (some e, { s.busAnswered with
      scs := !released, busDraws := s.busAnswered.busDraws + 1,
      busOut := s.busOut ++ (if s.scs then [] else [.select true]) ++ (bytes.take n).map .byte ++
        (if released then [.select false] else []) }) := by
  obtain ⟨released, hr⟩ := selectUnspecified_of_selected (s := ((s.csSet true).busAnswered.shiftOut (bytes.take n)))
    (State.csSet_scs s true)
  refine ⟨released, ?_⟩
  unfold transact
  rw [busWrite_of_fail (by simpa using h)]
  simp only [hr]
  simp only [csSet_eq, State.shiftOut, State.busAnswered]

/-- Everything a transaction can do to the state. -/
theorem transact_spec (bytes : List Byte) (s : State) :
    ∃ r scs draws events, transact bytes s = (r, { s.busAnswered with
      scs := scs, busDraws := draws, busOut := s.busOut ++ events }) ∧ (r = none ↔ nextBusAnswer s = .ok) := by
  cases h : nextBusAnswer s with
  | ok => exact ⟨none, false, s.busAnswered.busDraws, bracketed s bytes, transact_of_ok h bytes, by simp⟩
  | fail e n =>
    obtain ⟨released, h'⟩ := transact_of_fail h bytes
    refine ⟨some e, !released, s.busAnswered.busDraws + 1, (if s.scs then [] else [.select true]) ++
      (bytes.take n).map .byte ++ (if released then [.select false] else []), ?_, by simp⟩
    rw [h']
    simp only [List.append_assoc]

/-! ## The display operations' transactions -/

theorem clearStream_eq (p : Bool) : clearStream p = [if p then 0x06 else 0x04, 0x00] := by cases p <;> rfl

theorem toggleStream_eq (p : Bool) : toggleStream p = [if p then 0x02 else 0x00, 0x00] := by cases p <;> rfl

theorem modeByte_write (p : Bool) : modeByte Config.mWrite p = if p then 0x03 else 0x01 := by cases p <;> rfl

theorem writeStream_eq (p : Bool) (recs : List LineRecord) :
    writeStream p recs = [if p then 0x03 else 0x01] ++ recs.flatMap (fun r => [r.1] ++ r.2 ++ [0x00]) ++ [0x00] := by
  unfold writeStream
  rw [modeByte_write]
  rfl

/-- The stream of the dirty lines' records, as the spec writes it. -/
theorem writeStream_fbRecord (p : Bool) (m : Memory) (ys : List Nat) :
    writeStream p (ys.map (fbRecord m)) = [if p then 0x03 else 0x01] ++ ys.flatMap (dirtyRecord m) ++ [0x00] := by
  rw [writeStream_eq, List.flatMap_map]
  rfl

/-- The buffer line of a buffer line's wire line address is itself (R52). -/
theorem bufferLine_wireLine {y : Nat} (h : y < 240) : bufferLine (wireLine y) = y := by
  simp only [bufferLine, wireLine, Config.lineBase, BitVec.toNat_ofNat]
  omega

/-- The lines that FLUSH's records set on the panel are the dirty lines themselves. -/
theorem map_fbRecord_lines (m : Memory) (f : LineRecord → Option (List Byte)) {ys : List Nat} (h : ∀ y ∈ ys, y < 240) :
    (ys.map (fbRecord m)).map (fun r => (bufferLine r.1, f r)) = ys.map fun y => (y, f (fbRecord m y)) := by
  rw [List.map_map]
  exact List.map_congr_left fun y hy => Prod.ext (bufferLine_wireLine (h y hy)) rfl

/-- A hardware clear that succeeds. -/
theorem clearTransaction_of_ok {s : State} (h : nextBusAnswer s = .ok) (p : Bool) :
    clearTransaction p s = (none, { s.busAnswered with
      scs := false, panel := panelAll (some clearedLine), busOut := s.busOut ++ bracketed s (clearStream p) }) := by
  unfold clearTransaction
  rw [transact_of_ok h]
  rfl

/-- A hardware clear that fails. -/
theorem clearTransaction_of_fail {s : State} {e : BusError} {n : Nat} (h : nextBusAnswer s = .fail e n) (p : Bool) :
    ∃ released : Bool, clearTransaction p s = (some e, { s.busAnswered with
      scs := !released, busDraws := s.busAnswered.busDraws + 1, panel := panelAll none,
      busOut := s.busOut ++ (if s.scs then [] else [.select true]) ++ ((clearStream p).take n).map .byte ++
        (if released then [.select false] else []) }) := by
  obtain ⟨released, ht⟩ := transact_of_fail h (clearStream p)
  refine ⟨released, ?_⟩
  unfold clearTransaction
  rw [ht]
  rfl

/-- A partial write that succeeds. -/
theorem writeTransaction_of_ok {s : State} (h : nextBusAnswer s = .ok) (p : Bool) (recs : List LineRecord) :
    writeTransaction p recs s = (none, { s.busAnswered with
      scs := false, panel := panelSet s.panel (recs.map fun r => (bufferLine r.1, some r.2)),
      busOut := s.busOut ++ bracketed s (writeStream p recs) }) := by
  unfold writeTransaction
  rw [transact_of_ok h]
  rfl

/-- A partial write that fails. -/
theorem writeTransaction_of_fail {s : State} {e : BusError} {n : Nat} (h : nextBusAnswer s = .fail e n) (p : Bool)
    (recs : List LineRecord) :
    ∃ released : Bool, writeTransaction p recs s = (some e, { s.busAnswered with
      scs := !released, busDraws := s.busAnswered.busDraws + 1,
      panel := panelSet s.panel (recs.map fun r => (bufferLine r.1, none)),
      busOut := s.busOut ++ (if s.scs then [] else [.select true]) ++ ((writeStream p recs).take n).map .byte ++
        (if released then [.select false] else []) }) := by
  obtain ⟨released, ht⟩ := transact_of_fail h (writeStream p recs)
  refine ⟨released, ?_⟩
  unfold writeTransaction
  rw [ht]
  rfl

/-! ## A partial write put together from its parts (log 11) -/

/-- A record is taken exactly where its wire line address can come next in a stream that the block emits (R70, R81). -/
theorem recordRefused_eq_none_iff (w : Option PartialWrite) (line : Byte) :
    recordRefused w line = none ↔
      ∃ v, w = some v ∧ (1 ≤ line.toNat ∧ line.toNat ≤ 240) ∧ ∀ r ∈ v.records, r.1.toNat < line.toNat := by
  unfold recordRefused
  cases w with
  | none => simp
  | some v =>
    have hl : legalWireLine line = true ↔ 1 ≤ line.toNat ∧ line.toNat ≤ 240 := decide_eq_true_iff
    by_cases hr : 1 ≤ line.toNat ∧ line.toNat ≤ 240
    · simp [hl.mpr hr, hr]
    · simp [Bool.eq_false_iff.mpr fun h => hr (hl.mp h), hr]

/-- A stream that takes a record stays one that the block can emit. -/
theorem emittable_append {recs : List LineRecord} {r : LineRecord} (h : emittable recs)
    (hr : 1 ≤ r.1.toNat ∧ r.1.toNat ≤ 240) (hlt : ∀ q ∈ recs, q.1.toNat < r.1.toNat) : emittable (recs ++ [r]) := by
  refine ⟨fun q hq => ?_, List.pairwise_append.mpr ⟨h.2, List.pairwise_singleton _ _, fun q hq p hp => ?_⟩⟩
  · rcases List.mem_append.mp hq with hq | hq
    · exact h.1 q hq
    · rw [List.mem_singleton.mp hq]
      exact hr
  · rw [List.mem_singleton.mp hp]
    exact hlt q hq

theorem length_dirtyRecord (m : Memory) (y : Nat) : (dirtyRecord m y).length = 52 := by simp [dirtyRecord]

/-- The records of a stream are 52 bytes each. -/
theorem length_flatMap_dirtyRecord (m : Memory) (ys : List Nat) :
    (ys.flatMap (dirtyRecord m)).length = 52 * ys.length := by
  induction ys with
  | nil => rfl
  | cons y ys ih =>
    rw [List.flatMap_cons, List.length_append, ih, length_dirtyRecord, List.length_cons]
    omega

/-! ## The select line in the trace -/

theorem lastSelect_append (a b : List BusEvent) : lastSelect (a ++ b) = b.foldl levelAfter (lastSelect a) := by
  simp [lastSelect, List.foldl_append]

@[simp] theorem lastSelect_append_select (a : List BusEvent) (b : Bool) : lastSelect (a ++ [.select b]) = b := by
  simp [lastSelect_append, levelAfter]

@[simp] theorem lastSelect_append_bytes (a : List BusEvent) (bytes : List Byte) :
    lastSelect (a ++ bytes.map .byte) = lastSelect a := by
  rw [lastSelect_append]
  induction bytes <;> simp_all [levelAfter]

/-- Driving the select line keeps SCS the level last driven. -/
theorem csSet_traced {s : State} (h : s.scs = lastSelect s.busOut) (b : Bool) :
    (s.csSet b).scs = lastSelect (s.csSet b).busOut := by
  rw [csSet_eq]
  by_cases hb : s.scs = b
  · simp [hb, ← h]
  · simp [hb]

theorem busWrite_traced {s : State} (h : s.scs = lastSelect s.busOut) (bytes : List Byte) :
    (busWrite bytes s).2.scs = lastSelect (busWrite bytes s).2.busOut := by
  obtain ⟨sent, hw⟩ := busWrite_spec bytes s
  rw [hw]
  simpa using h

/-! ## The ghost panel -/

theorem panelLine_of_lt (pan : Panel) {y : Nat} (h : y < 240) : panelLine pan y = pan[y] := by
  simp [panelLine, h]

theorem panelLine_of_ge (pan : Panel) {y : Nat} (h : 240 ≤ y) : panelLine pan y = none := by
  simp [panelLine, Nat.not_lt.mpr h]

@[simp] theorem panelLine_panelAll (l : Option (List Byte)) {y : Nat} (h : y < 240) : panelLine (panelAll l) y = l := by
  simp [panelLine_of_lt _ h, panelAll]

theorem panelLine_set (pan : Panel) (x y : Nat) (l : Option (List Byte)) (h : y < 240) :
    panelLine (pan.setIfInBounds x l) y = if x = y then l else panelLine pan y := by
  rw [panelLine_of_lt _ h, panelLine_of_lt _ h, Vector.getElem_setIfInBounds]

/-- Setting the lines of a list, each to a value that depends on the line only. -/
theorem panelLine_panelSet (f : Nat → Option (List Byte)) (ys : List Nat) (pan : Panel) {y : Nat} (h : y < 240) :
    panelLine (panelSet pan (ys.map fun y => (y, f y))) y = if y ∈ ys then f y else panelLine pan y := by
  induction ys generalizing pan with
  | nil => simp [panelSet]
  | cons x ys ih =>
    have hstep : panelSet pan ((x :: ys).map fun y => (y, f y)) =
        panelSet (pan.setIfInBounds x (f x)) (ys.map fun y => (y, f y)) := rfl
    rw [hstep, ih, panelLine_set _ _ _ _ h]
    by_cases hy : y ∈ ys
    · simp [hy]
    · by_cases hx : x = y
      · simp [hx]
      · simp [hy, hx, Ne.symm hx]

end Sys2Proof.Machine
end

