-- ==== Sys2Proof/Laws/Bytes.lean ====
section
/-! SUPPORT. Fields taken apart and put together again. -/

namespace Sys2Proof

theorem getLsbD_be16 (h l : Byte) (i : Nat) :
    (be16 h l).getLsbD i = if i < 8 then l.getLsbD i else h.getLsbD (i - 8) :=
  BitVec.getLsbD_append

theorem getLsbD_hi (w : Word) (i : Nat) : (hi w).getLsbD i = (decide (i < 8) && w.getLsbD (8 + i)) :=
  BitVec.getLsbD_extractLsb' 8 8 w i

theorem getLsbD_lo (w : Word) (i : Nat) : (lo w).getLsbD i = (decide (i < 8) && w.getLsbD i) := by
  simp [lo, BitVec.getLsbD_extractLsb']

@[simp] theorem be16_hi_lo (w : Word) : be16 (hi w) (lo w) = w := by
  refine BitVec.eq_of_getLsbD_eq fun i hlt => ?_
  rw [getLsbD_be16, getLsbD_hi, getLsbD_lo]
  split
  · simp [*]
  · have h1 : i - 8 < 8 := by omega
    have h2 : 8 + (i - 8) = i := by omega
    simp [h1, h2]

@[simp] theorem le16_lo_hi (w : Word) : le16 (lo w) (hi w) = w := be16_hi_lo w

@[simp] theorem hi_be16 (h l : Byte) : hi (be16 h l) = h := by
  refine BitVec.eq_of_getLsbD_eq fun i hlt => ?_
  rw [getLsbD_hi, getLsbD_be16]
  simp [hlt]

@[simp] theorem lo_be16 (h l : Byte) : lo (be16 h l) = l := by
  refine BitVec.eq_of_getLsbD_eq fun i hlt => ?_
  rw [getLsbD_lo, getLsbD_be16]
  simp [hlt]

@[simp] theorem hi_le16 (l h : Byte) : hi (le16 l h) = h := hi_be16 h l

@[simp] theorem lo_le16 (l h : Byte) : lo (le16 l h) = l := lo_be16 h l

theorem be16_toNat (h l : Byte) : (be16 h l).toNat = h.toNat * 256 + l.toNat := by
  have hl := l.isLt
  have : (be16 h l).toNat = h.toNat <<< 8 ||| l.toNat := BitVec.toNat_append h l
  rw [this, ← Nat.shiftLeft_add_eq_or_of_lt hl, Nat.shiftLeft_eq]

theorem getLsbD_be32 (a b c d : Byte) (i : Nat) :
    (be32 a b c d).getLsbD i =
      if i < 8 then d.getLsbD i else if i < 16 then c.getLsbD (i - 8)
      else if i < 24 then b.getLsbD (i - 16) else a.getLsbD (i - 24) := by
  have h1 : (be32 a b c d).getLsbD i = if i < 8 then d.getLsbD i else (a ++ b ++ c).getLsbD (i - 8) :=
    BitVec.getLsbD_append
  rw [h1]
  simp only [BitVec.getLsbD_append]
  repeat' split
  all_goals first | rfl | omega

@[simp] theorem be32_bytes (v : BitVec 32) :
    be32 (v.extractLsb' 24 8) (v.extractLsb' 16 8) (v.extractLsb' 8 8) (v.extractLsb' 0 8) = v := by
  refine BitVec.eq_of_getLsbD_eq fun i hlt => ?_
  rw [getLsbD_be32]
  simp only [BitVec.getLsbD_extractLsb']
  have a1 : 16 ≤ i → 16 + (i - 16) = i := by omega
  have a2 : 24 ≤ i → 24 + (i - 24) = i := by omega
  have a3 : 8 ≤ i → 8 + (i - 8) = i := by omega
  split
  · simp [*]
  · split
    · simp (disch := omega) only [a3, decide_true, Bool.true_and, show i - 8 < 8 by omega]
    · split
      · simp (disch := omega) only [a1, decide_true, Bool.true_and, show i - 16 < 8 by omega]
      · simp (disch := omega) only [a2, decide_true, Bool.true_and, show i - 24 < 8 by omega]

@[simp] theorem bigEndian32_be32 (a b c d : Byte) : bigEndian32 (be32 a b c d) = [a, b, c, d] := by
  simp only [bigEndian32, List.cons.injEq, and_true]
  refine ⟨?_, ?_, ?_, ?_⟩ <;> refine BitVec.eq_of_getLsbD_eq fun i hlt => ?_ <;>
    simp only [BitVec.getLsbD_extractLsb', getLsbD_be32, hlt, decide_true, Bool.true_and]
  · simp [show ¬ 24 + i < 8 by omega, show ¬ 24 + i < 16 by omega]
  · simp [show ¬ 16 + i < 8 by omega, show ¬ 16 + i < 16 by omega, show 16 + i < 24 by omega]
  · simp [show ¬ 8 + i < 8 by omega, show 8 + i < 16 by omega]
  · simp [hlt]

@[simp] theorem bigEndian16_be16 (h l : Byte) : bigEndian16 (be16 h l) = [h, l] := by simp [bigEndian16]

@[simp] theorem crcField_le16 (l h : Byte) : crcField (le16 l h) = [l, h] := by simp [crcField]

@[simp] theorem colourOf_colourBit (c : Colour) : colourOf (colourBit c) = c := by cases c <;> rfl

@[simp] theorem colourBit_colourOf (b : Bool) : colourBit (colourOf b) = b := by cases b <;> rfl

end Sys2Proof
end

