-- ==== Sys2Proof/Laws/Crc.lean ====
section
/-! SUPPORT. The CRC's byte step: its bits, that it loses nothing, and what it does to an accumulator whose low bits
are zero. -/

namespace Sys2Proof.Machine

theorem getLsbD_crcShift (acc : Word) (i : Nat) :
    (crcShift acc).getLsbD i = (acc.getLsbD (i + 1) ^^ (acc.getLsbD 0 && Config.crcPoly.getLsbD i)) := by
  unfold crcShift
  split
  · rename_i h
    rw [BitVec.getLsbD_xor, BitVec.getLsbD_ushiftRight, h, Nat.add_comm, Bool.true_and]
  · rename_i h
    rw [BitVec.getLsbD_ushiftRight, Bool.eq_false_iff.mpr h, Nat.add_comm]
    simp

theorem crcShift_injective {a b : Word} (h : crcShift a = crcShift b) : a = b := by
  have hbit : ∀ i, (a.getLsbD (i + 1) ^^ (a.getLsbD 0 && Config.crcPoly.getLsbD i)) =
      (b.getLsbD (i + 1) ^^ (b.getLsbD 0 && Config.crcPoly.getLsbD i)) := fun i => by
    rw [← getLsbD_crcShift, ← getLsbD_crcShift, h]
  have h0 : a.getLsbD 0 = b.getLsbD 0 := by
    have h15 := hbit 15
    rw [BitVec.getLsbD_of_ge a (15 + 1) (by omega), BitVec.getLsbD_of_ge b (15 + 1) (by omega),
      show Config.crcPoly.getLsbD 15 = true by decide] at h15
    simpa using h15
  refine BitVec.eq_of_getLsbD_eq fun i hi => ?_
  cases i with
  | zero => exact h0
  | succ i =>
    have := hbit i
    rw [h0] at this
    exact Bool.xor_left_inj.mp this

theorem crcShifts_injective (n : Nat) {a b : Word} (h : crcShifts n a = crcShifts n b) : a = b := by
  induction n generalizing a b with
  | zero => exact h
  | succ n ih => exact crcShift_injective (ih h)

theorem zext16_injective {a b : Byte} (h : zext16 a = zext16 b) : a = b := by
  refine BitVec.eq_of_getLsbD_eq fun i hi => ?_
  have := congrArg (fun w : Word => w.getLsbD i) h
  simpa [zext16, BitVec.getLsbD_setWidth, show i < 16 by omega] using this

theorem crcStep_injective_acc {a b : Word} {x : Byte} (h : crcStep a x = crcStep b x) : a = b :=
  (BitVec.xor_left_inj _).mp (crcShifts_injective 8 h)

theorem crcStep_injective_byte {a : Word} {x y : Byte} (h : crcStep a x = crcStep a y) : x = y :=
  zext16_injective ((BitVec.xor_right_inj _).mp (crcShifts_injective 8 h))

/-- The same bytes after two different accumulators leave two different accumulators. -/
theorem foldl_crcStep_injective (l : List Byte) {a b : Word} (h : l.foldl crcStep a = l.foldl crcStep b) : a = b := by
  induction l generalizing a b with
  | nil => exact h
  | cons x l ih => exact crcStep_injective_acc (ih h)

/-- While the low bits are zero the iterations only shift. -/
theorem crcShifts_of_low_zero (n : Nat) (acc : Word) (h : ∀ i, i < n → acc.getLsbD i = false) :
    crcShifts n acc = acc >>> n := by
  induction n generalizing acc with
  | zero => simp [crcShifts]
  | succ n ih =>
    have h0 : crcShift acc = acc >>> 1 := by simp only [crcShift, h 0 (by omega), Bool.false_eq_true, if_false]
    unfold crcShifts
    rw [h0, ih _ fun i hi => by rw [BitVec.getLsbD_ushiftRight]; exact h _ (by omega),
      ← BitVec.shiftRight_add, Nat.add_comm]

@[simp] theorem crcShifts_zero (n : Nat) : crcShifts n 0#16 = 0#16 := by
  rw [crcShifts_of_low_zero n 0#16 (by simp)]
  simp

/-- Feeding an accumulator its own low byte leaves its high byte. -/
theorem crcStep_own_low_byte (c : Word) : crcStep c (lo c) = zext16 (hi c) := by
  have hlow : ∀ i, i < 8 → (c ^^^ zext16 (lo c)).getLsbD i = false := fun i hi => by
    rw [BitVec.getLsbD_xor, zext16, BitVec.getLsbD_setWidth, getLsbD_lo]
    simp [hi, show i < 16 by omega]
  unfold crcStep
  rw [crcShifts_of_low_zero 8 _ hlow]
  refine BitVec.eq_of_getLsbD_eq fun i hi => ?_
  rw [BitVec.getLsbD_ushiftRight, BitVec.getLsbD_xor, zext16, BitVec.getLsbD_setWidth, getLsbD_lo, zext16,
    BitVec.getLsbD_setWidth, getLsbD_hi]
  by_cases h : i < 8
  · simp [h, show i < 16 by omega]
  · simp [h, BitVec.getLsbD_of_ge c (8 + i) (by omega)]

/-- Feeding an accumulator that is a byte that byte leaves zero. -/
theorem crcStep_own_byte (b : Byte) : crcStep (zext16 b) b = 0 := by simp [crcStep]

theorem crc16_append (s t : List Byte) : crc16 (s ++ t) = t.foldl crcStep (crc16 s) := by
  simp [crc16, List.foldl_append]

end Sys2Proof.Machine
end

