-- ==== Sys2Proof/Laws/Decode.lean ====
section
/-! SUPPORT. Each part of the decoder inverted: what bytes it accepted, and what it read from them. -/

namespace Sys2Proof

theorem decodeBare_ok {i j : Instr} {sel : Byte} {ops : List Byte} (h : decodeBare j sel ops = .ok i) :
    ops = [] ∧ i = j := by
  unfold decodeBare at h
  split at h
  · exact ⟨rfl, (Except.ok.inj h).symm⟩
  · nomatch h

theorem decodeWord16_ok {mk : Word → Instr} {i : Instr} {sel : Byte} {ops : List Byte}
    (h : decodeWord16 mk sel ops = .ok i) : ∃ w, ops = bigEndian16 w ∧ i = mk w := by
  unfold decodeWord16 at h
  split at h
  · exact ⟨_, (bigEndian16_be16 _ _).symm, (Except.ok.inj h).symm⟩
  · nomatch h

theorem decodeWord16x2_ok {mk : Word → Word → Instr} {i : Instr} {sel : Byte} {ops : List Byte}
    (h : decodeWord16x2 mk sel ops = .ok i) : ∃ v w, ops = bigEndian16 v ++ bigEndian16 w ∧ i = mk v w := by
  unfold decodeWord16x2 at h
  split at h
  · exact ⟨_, _, by rw [bigEndian16_be16, bigEndian16_be16]; rfl, (Except.ok.inj h).symm⟩
  · nomatch h

theorem decodeCrc16_ok {i : Instr} {sel : Byte} {ops : List Byte} (h : decodeCrc16 sel ops = .ok i) :
    ∃ data : List Byte, data.length ≤ 65535 ∧ ops = bigEndian16 (BitVec.ofNat 16 data.length) ++ data ∧
      i = .crc16 data := by
  unfold decodeCrc16 at h
  split at h
  · split at h
    · rename_i hh l data hl
      refine ⟨data, ?_, ?_, (Except.ok.inj h).symm⟩
      · have := (be16 hh l).isLt
        omega
      · rw [hl, BitVec.ofNat_toNat, BitVec.setWidth_eq, bigEndian16_be16]
        rfl
    · nomatch h
  · nomatch h

theorem decodeSetaddr_ok {i : Instr} {sel : Byte} {ops : List Byte} (h : decodeSetaddr sel ops = .ok i) :
    ∃ a, ops = [a] ∧ i = .setaddr a := by
  unfold decodeSetaddr at h
  split at h
  · exact ⟨_, rfl, (Except.ok.inj h).symm⟩
  · nomatch h

theorem decodeSetbaud_ok {i : Instr} {sel : Byte} {ops : List Byte} (h : decodeSetbaud sel ops = .ok i) :
    ∃ b, ops = bigEndian32 b ∧ i = .setbaud b := by
  unfold decodeSetbaud at h
  split at h
  · exact ⟨_, (bigEndian32_be32 _ _ _ _).symm, (Except.ok.inj h).symm⟩
  · nomatch h

theorem decodeSetpix_ok {i : Instr} {sel : Byte} {ops : List Byte} (h : decodeSetpix sel ops = .ok i) :
    ∃ x y c, ops = bigEndian16 x ++ bigEndian16 y ++ [colourByte c] ∧ i = .setpix x y c := by
  unfold decodeSetpix at h
  split at h
  · split at h
    · rename_i hc
      refine ⟨_, _, _, ?_, (Except.ok.inj h).symm⟩
      rw [bigEndian16_be16, bigEndian16_be16]
      rcases hc with rfl | rfl <;> rfl
    · nomatch h
  · nomatch h

theorem decodeClearto_ok {i : Instr} {sel : Byte} {ops : List Byte} (h : decodeClearto sel ops = .ok i) :
    ∃ c mark, ops = [clearOperand c mark] ∧ i = .clearto c mark := by
  unfold decodeClearto at h
  split at h
  · split at h
    · rename_i b hb
      refine ⟨_, _, ?_, (Except.ok.inj h).symm⟩
      have : ∀ b : Byte, b >>> 2 = 0 → [b] = [clearOperand (colourOf (b.getLsbD 0)) (b.getLsbD 1)] := by decide
      exact this b hb
    · nomatch h
  · nomatch h

theorem decodeDisplayByte_ok {i : Instr} {m : Byte} (h : decodeDisplayByte m = .ok i) :
    (m = 0 ∧ i = .dwrTrailer) ∨ ∃ p, m = modeByte Config.mWrite p ∧ i = .dwrHeader p := by
  unfold decodeDisplayByte at h
  split at h
  · rename_i hm
    exact .inl ⟨hm, (Except.ok.inj h).symm⟩
  · split at h
    · rename_i hm
      exact .inr ⟨_, hm, (Except.ok.inj h).symm⟩
    · split at h
      · rename_i hm
        exact .inr ⟨_, hm, (Except.ok.inj h).symm⟩
      · nomatch h

theorem decodeDisplayPair_ok {i : Instr} {m : Byte} (h : decodeDisplayPair m = .ok i) :
    ∃ p, (m = modeByte Config.mClear p ∧ i = .dcl p) ∨ (m = modeByte Config.mToggle p ∧ i = .dtg p) := by
  unfold decodeDisplayPair at h
  split at h
  · rename_i hm
    exact ⟨_, .inl ⟨hm, (Except.ok.inj h).symm⟩⟩
  · split at h
    · rename_i hm
      exact ⟨_, .inl ⟨hm, (Except.ok.inj h).symm⟩⟩
    · split at h
      · rename_i hm
        exact ⟨_, .inr ⟨hm, (Except.ok.inj h).symm⟩⟩
      · split at h
        · rename_i hm
          exact ⟨_, .inr ⟨hm, (Except.ok.inj h).symm⟩⟩
        · nomatch h

theorem decodeLineRecord_ok {i : Instr} {l : Byte} {rest : List Byte} (h : decodeLineRecord l rest = .ok i) :
    ∃ pixels : List Byte, pixels.length = 50 ∧ rest = pixels ++ [0] ∧ i = .dwrLine l pixels := by
  unfold decodeLineRecord at h
  split at h
  · rename_i hc
    refine ⟨rest.take 50, ?_, ?_, (Except.ok.inj h).symm⟩
    · have := hc.1
      simp only [Config.lineBytes] at this
      simp [this]
    · have := List.take_append_drop 50 rest
      rw [show rest.drop 50 = [0] from hc.2] at this
      exact this.symm
  · nomatch h

end Sys2Proof
end

