-- ==== Sys2Proof/Laws/Fetch.lean ====
section
/-! SUPPORT. What is performed next, and what a step can do, said once. -/

namespace Sys2Proof.Machine

/-- A crossing is taken exactly where its bytes decode to a form that may cross (R209, R215). -/
theorem crossingInstr_eq_ok_iff (c : Crossing) (i : Instr) :
    crossingInstr c = .ok i ↔ decode c.channel c.bytes = .ok i ∧ mayCross c.operation i = true := by
  unfold crossingInstr
  cases decode c.channel c.bytes with
  | error e => simp
  | ok j =>
    by_cases h : mayCross c.operation j = true
    · simp only [h, if_true, Except.ok.injEq]
      exact ⟨fun e => ⟨e, e ▸ h⟩, fun e => e.1⟩
    · simp only [h, Bool.false_eq_true, if_false, Except.ok.injEq, reduceCtorEq, false_iff]
      exact fun e => h (e.1 ▸ e.2)

/-- A call is taken exactly where its word decodes as a command word (R83). -/
theorem callInstr_eq_ok_iff (word : List Byte) (i : Instr) :
    callInstr word = .ok i ↔ decode .host word = .ok i := by
  unfold callInstr
  cases decode .host word <;> simp

/-- Everything a step that answers a next state can do: wait, let a wire form cross, or perform the host's next
call. -/
theorem step_next {s t : State} (h : step s = .next t) :
    (t = s ∧ s.crossings = [] ∧ s.hostCalls = []) ∨
    (∃ c rest i, s.crossings = c :: rest ∧ crossingInstr c = .ok i ∧ exec i { s with crossings := rest } = .next t) ∨
    (∃ word rest i, s.crossings = [] ∧ s.hostCalls = word :: rest ∧ decode .host word = .ok i ∧
      exec i { s with hostCalls := rest } = .next t) := by
  unfold step fetch at h
  cases hc : s.crossings with
  | cons c rest =>
    simp only [hc] at h
    cases hi : crossingInstr c with
    | error e => simp only [hi, reduceCtorEq] at h
    | ok i =>
      simp only [hi] at h
      exact .inr (.inl ⟨c, rest, i, rfl, hi, h⟩)
  | nil =>
    simp only [hc] at h
    cases hw : s.hostCalls with
    | nil =>
      simp only [hw, Host.Outcome.next.injEq] at h
      exact .inl ⟨h.symm, rfl, rfl⟩
    | cons word rest =>
      simp only [hw] at h
      cases hi : callInstr word with
      | error e => simp only [hi, reduceCtorEq] at h
      | ok i =>
        simp only [hi] at h
        exact .inr (.inr ⟨word, rest, i, rfl, rfl, (callInstr_eq_ok_iff word i).mp hi, by simpa only [hc] using h⟩)

end Sys2Proof.Machine
end

