-- ==== Sys2Proof/Laws/Flags.lean ====
section
/-! SUPPORT. The dirty bitmap bit by bit. -/

namespace Sys2Proof.Machine

theorem dirtyBit_markLine (d : BitVec 240) {y l : Nat} (hl : l < 240) :
    dirtyBit (markLine d y) l = (dirtyBit d l || decide (l = y)) := by
  rw [dirtyBit, markLine, BitVec.getLsbD_or, BitVec.getLsbD_twoPow, dirtyBit]
  by_cases h : y = l
  · simp [h, hl]
  · simp [h, Ne.symm h]

@[simp] theorem dirtyBit_allDirty {l : Nat} (hl : l < 240) : dirtyBit allDirty l = true := by
  rw [dirtyBit, allDirty, BitVec.getLsbD_allOnes, decide_eq_true hl]

@[simp] theorem dirtyBit_noneDirty (l : Nat) : dirtyBit noneDirty l = false := by
  simp [dirtyBit, noneDirty]

theorem mem_dirtyLines {d : BitVec 240} {y : Nat} : y ∈ dirtyLines d ↔ y < 240 ∧ dirtyBit d y = true := by
  simp [dirtyLines, Config.height]

theorem dirtyLines_ascending (d : BitVec 240) : (dirtyLines d).Pairwise (· < ·) :=
  List.pairwise_lt_range.filter _

/-- No line is dirty exactly when the bitmap is zero. -/
theorem dirty_eq_zero_iff (d : BitVec 240) : d = noneDirty ↔ ∀ y, y < 240 → dirtyBit d y = false := by
  refine ⟨fun h y _ => by rw [h, dirtyBit_noneDirty], fun h => BitVec.eq_of_getLsbD_eq fun y hy => ?_⟩
  rw [show d.getLsbD y = false from h y hy, noneDirty, BitVec.getLsbD_zero]

theorem dirtyLines_eq_nil_iff (d : BitVec 240) : dirtyLines d = [] ↔ d = noneDirty := by
  rw [dirty_eq_zero_iff, List.eq_nil_iff_forall_not_mem]
  simp only [mem_dirtyLines, not_and, Bool.not_eq_true]

end Sys2Proof.Machine
end

