-- ==== Sys2Proof/Laws/Memory.lean ====
section
/-! SUPPORT. The framebuffer memory: what a read gives after a write, and that every memory operation keeps the
canonical form. -/

namespace Sys2Proof.Machine

@[simp] theorem Memory.read_nil (a : Nat) : Memory.read [] a = unlistedByte := rfl

theorem Memory.read_cons (c : Host.Cell) (m : Memory) (a : Nat) :
    Memory.read (c :: m) a = if c.1 = a then c.2 else Memory.read m a := rfl

theorem Memory.read_erase (m : Memory) (a b : Nat) :
    Memory.read (Memory.erase m a) b = if b = a then unlistedByte else Memory.read m b := by
  induction m with
  | nil => simp [Memory.erase]
  | cons c m ih =>
    simp only [Memory.erase, List.filter_cons] at ih ⊢
    by_cases hca : c.1 = a
    · simp only [hca, ne_eq, not_true_eq_false, decide_false, Bool.false_eq_true, if_false, Memory.read_cons, ih]
      by_cases hba : b = a
      · simp [hba]
      · simp [hba, Ne.symm hba]
    · simp only [hca, ne_eq, not_false_eq_true, decide_true, if_true, Memory.read_cons, ih]
      by_cases hcb : c.1 = b
      · have hba : b ≠ a := fun h => hca (hcb.trans h)
        simp [hcb, hba]
      · simp [hcb]

theorem Memory.read_insertCell (m : Memory) (a b : Nat) (v : Byte) (h : Memory.read m a = unlistedByte)
    (hm : ∀ c ∈ m, c.1 ≠ a) : Memory.read (insertCell a v m) b = if b = a then v else Memory.read m b := by
  induction m with
  | nil =>
    simp only [insertCell, Memory.read_cons, Memory.read_nil]
    by_cases hb : b = a
    · simp [hb]
    · simp [hb, Ne.symm hb]
  | cons c m ih =>
    have hc : c.1 ≠ a := hm c (by simp)
    have hm' : ∀ d ∈ m, d.1 ≠ a := fun d hd => hm d (by simp [hd])
    simp only [Memory.read_cons, hc, if_false] at h
    unfold insertCell
    split
    · simp only [Memory.read_cons, ih h hm']
      by_cases hcb : c.1 = b
      · have : b ≠ a := fun h => hc (hcb.trans h)
        simp [hcb, this]
      · simp [hcb]
    · simp only [Memory.read_cons]
      by_cases hb : b = a
      · simp [hb]
      · simp [hb, Ne.symm hb]

theorem Memory.not_mem_erase (m : Memory) (a : Nat) : ∀ c ∈ Memory.erase m a, c.1 ≠ a := by
  intro c hc
  simpa [Memory.erase] using (List.mem_filter.mp hc).2

/-- A read after a write: the written value at the written address, what was there at every other. -/
theorem Memory.read_write (m : Memory) (a b : Nat) (v : Byte) :
    Memory.read (Memory.write m a v) b = if b = a then v else Memory.read m b := by
  unfold Memory.write
  split
  · rename_i hv
    rw [Memory.read_erase, hv]
  · rw [Memory.read_insertCell _ _ _ _ (by rw [Memory.read_erase, if_pos rfl]) (Memory.not_mem_erase m a),
      Memory.read_erase]
    by_cases hb : b = a <;> simp [hb]

@[simp] theorem Memory.read_write_same (m : Memory) (a : Nat) (v : Byte) :
    Memory.read (Memory.write m a v) a = v := by simp [Memory.read_write]

theorem Memory.read_write_ne (m : Memory) {a b : Nat} (v : Byte) (h : b ≠ a) :
    Memory.read (Memory.write m a v) b = Memory.read m b := by simp [Memory.read_write, h]

/-! ## The canonical form -/

/-- The canonical form as a proposition. -/
theorem Memory.wf_iff (m : Memory) :
    Memory.wf m = true ↔
      m.Pairwise (fun c d => c.1 < d.1) ∧ ∀ c ∈ m, c.1 < Config.fbBytes ∧ c.2 ≠ unlistedByte := by
  simp only [Memory.wf, Bool.and_eq_true, decide_eq_true_eq, List.all_eq_true]

theorem Memory.wf_erase {m : Memory} (h : Memory.wf m = true) (a : Nat) : Memory.wf (Memory.erase m a) = true := by
  rw [Memory.wf_iff] at h ⊢
  exact ⟨h.1.filter _, fun c hc => h.2 c (List.mem_filter.mp hc).1⟩

theorem mem_insertCell {a : Nat} {v : Byte} {m : Memory} {c : Host.Cell} (h : c ∈ insertCell a v m) :
    c = (a, v) ∨ c ∈ m := by
  induction m with
  | nil => simpa [insertCell] using h
  | cons d m ih =>
    unfold insertCell at h
    split at h
    · rcases List.mem_cons.mp h with h | h
      · exact .inr (by simp [h])
      · rcases ih h with h | h
        · exact .inl h
        · exact .inr (by simp [h])
    · rcases List.mem_cons.mp h with h | h
      · exact .inl h
      · exact .inr h

theorem Memory.pairwise_insertCell {m : Memory} (a : Nat) (v : Byte) (h : m.Pairwise fun c d => c.1 < d.1)
    (hm : ∀ c ∈ m, c.1 ≠ a) : (insertCell a v m).Pairwise fun c d => c.1 < d.1 := by
  induction m with
  | nil => simp [insertCell]
  | cons d m ih =>
    have hd := List.pairwise_cons.mp h
    have hda : d.1 ≠ a := hm d (by simp)
    unfold insertCell
    split
    · rename_i hlt
      refine List.pairwise_cons.mpr ⟨fun c hc => ?_, ih hd.2 fun c hc => hm c (by simp [hc])⟩
      rcases mem_insertCell hc with rfl | hc
      · exact hlt
      · exact hd.1 c hc
    · refine List.pairwise_cons.mpr ⟨fun c hc => ?_, h⟩
      have had : a < d.1 := by omega
      rcases List.mem_cons.mp hc with rfl | hc
      · exact had
      · exact had.trans (hd.1 c hc)

/-- A write inside framebuffer space keeps the canonical form. -/
theorem Memory.wf_write {m : Memory} (h : Memory.wf m = true) {a : Nat} (ha : a < Config.fbBytes) (v : Byte) :
    Memory.wf (Memory.write m a v) = true := by
  unfold Memory.write
  split
  · exact Memory.wf_erase h a
  · rename_i hv
    have he := (Memory.wf_iff _).mp (Memory.wf_erase h a)
    refine (Memory.wf_iff _).mpr ⟨Memory.pairwise_insertCell a v he.1 (Memory.not_mem_erase m a), fun c hc => ?_⟩
    rcases mem_insertCell hc with rfl | hc
    · exact ⟨ha, hv⟩
    · exact he.2 c hc

/-! ## Memories given by a function -/

/-- The listed part of a function over a rising list of addresses. -/
theorem read_filterMap (f : Nat → Byte) (l : List Nat) (a : Nat) :
    Memory.read (l.filterMap fun a => if f a = unlistedByte then none else some (a, f a)) a =
      if a ∈ l then f a else unlistedByte := by
  induction l with
  | nil => simp
  | cons b l ih =>
    simp only [List.filterMap_cons, List.mem_cons]
    by_cases hb : f b = unlistedByte
    · simp only [hb, if_true, ih]
      by_cases hab : a = b
      · subst hab
        simp [hb]
      · simp [hab]
    · simp only [hb, if_false, Memory.read_cons, ih]
      by_cases hab : a = b
      · simp [hab]
      · simp [hab, Ne.symm hab]

/-- Reading the memory of a function gives the function, inside framebuffer space. -/
theorem read_memoryOf (f : Nat → Byte) (a : Nat) :
    Memory.read (memoryOf f) a = if a < Config.fbBytes then f a else unlistedByte := by
  unfold memoryOf
  rw [read_filterMap]
  simp only [List.mem_range]

theorem wf_memoryOf (f : Nat → Byte) : Memory.wf (memoryOf f) = true := by
  unfold memoryOf
  refine (Memory.wf_iff _).mpr ⟨?_, fun c hc => ?_⟩
  · refine List.Pairwise.filterMap _ ?_ List.pairwise_lt_range
    intro a b hab c hc d hd
    split at hc
    · simp at hc
    · split at hd
      · simp at hd
      · simp only [Option.some.injEq] at hc hd
        rw [← hc, ← hd]
        exact hab
  · obtain ⟨a, ha, hc⟩ := List.mem_filterMap.mp hc
    split at hc
    · simp at hc
    · rename_i hf
      simp only [Option.some.injEq] at hc
      rw [← hc]
      exact ⟨List.mem_range.mp ha, hf⟩

theorem Memory.read_fill (v : Byte) {a : Nat} (h : a < Config.fbBytes) : Memory.read (Memory.fill v) a = v := by
  simp [Memory.fill, read_memoryOf, h]

theorem Memory.wf_fill (v : Byte) : Memory.wf (Memory.fill v) = true := wf_memoryOf _

@[simp] theorem State.reset_fb : State.reset.fb = memoryOf Config.fbInit := by simp only [State.reset]

theorem State.reset_fb_wf : Memory.wf State.reset.fb = true := by
  rw [State.reset_fb]
  exact wf_memoryOf _

/-- The checked access answers inside framebuffer space. -/
theorem fbLoad_of_lt (m : Memory) {a : Nat} (h : a < Config.fbBytes) : fbLoad m a = some (Memory.read m a) := by
  simp [fbLoad, h]

/-! ## Lines -/

@[simp] theorem length_fbLine (m : Memory) (y : Nat) : (fbLine m y).length = 50 := by
  simp [fbLine, Config.lineBytes]

theorem getElem?_fbLine (m : Memory) (y k : Nat) (h : k < 50) :
    (fbLine m y)[k]? = some (Memory.read m (50 * y + k)) := by
  simp [fbLine, Config.lineBytes, h]

theorem fbLine_congr {m m' : Memory} {y : Nat} (h : ∀ k, k < 50 → Memory.read m (50 * y + k) = Memory.read m' (50 * y + k)) :
    fbLine m y = fbLine m' y := by
  simp only [fbLine, Config.lineBytes]
  exact List.map_congr_left fun k hk => h k (List.mem_range.mp hk)

theorem fbLine_fill (v : Byte) {y : Nat} (h : y < 240) : fbLine (Memory.fill v) y = List.replicate 50 v := by
  refine List.ext_getElem? fun k => ?_
  by_cases hk : k < 50
  · rw [getElem?_fbLine _ _ _ hk, Memory.read_fill _ (by simp only [Config.fbBytes]; omega)]
    rw [List.getElem?_replicate, if_pos hk]
  · rw [List.getElem?_eq_none (by simpa using Nat.not_lt.mp hk),
      List.getElem?_eq_none (by simpa using Nat.not_lt.mp hk)]

end Sys2Proof.Machine
end

