-- ==== Sys2Proof/Laws/Operands.lean ====
section
/-! SUPPORT. Pixel operands: the grid check, the byte address inside framebuffer space, the painted bit, and what the
read-modify-write of SETPIX can do. -/

namespace Sys2Proof.Machine

/-- The bounds check of SETPIX and GETPIX, on the coordinates as integers. -/
theorem inGrid_iff (x y : Word) :
    inGrid x y = true ↔ 0 ≤ x.toInt ∧ x.toInt < 400 ∧ 0 ≤ y.toInt ∧ y.toInt < 240 := by
  unfold inGrid
  rw [decide_eq_true_iff]
  exact Iff.rfl

theorem not_inGrid {x y : Word} (h : x.toInt < 0 ∨ 400 ≤ x.toInt ∨ y.toInt < 0 ∨ 240 ≤ y.toInt) :
    ¬ inGrid x y = true := by
  rw [inGrid_iff]
  omega

/-- A pixel of the grid is in framebuffer space (R50). -/
theorem byteAddr_lt {x y : Word} (h : inGrid x y = true) :
    byteAddr (pixelIndex x) (pixelIndex y) < Config.fbBytes := by
  have := (inGrid_iff x y).mp h
  simp only [byteAddr, pixelIndex, coordinate, Config.fbBytes, Config.lineBytes]
  omega

theorem bitIndex_lt (x : Nat) : bitIndex x < 8 := Nat.mod_lt x (by omega)

/-- Painting sets bit k to the colour and leaves the other bits. -/
theorem getLsbD_paintBit (old : Byte) {k i : Nat} (c : Colour) (hk : k < 8) (hi : i < 8) :
    (paintBit old k c).getLsbD i = if i = k then decide (c = .light) else old.getLsbD i := by
  have hsub : i - k = 0 ↔ i ≤ k := by omega
  cases c <;> by_cases h : i = k
  all_goals
    simp [paintBit, hi, h, hk, hsub]
    try omega

/-- Painting a bit with the colour it has changes nothing, and only that changes nothing. -/
theorem paintBit_eq_self_iff (old : Byte) {k : Nat} (hk : k < 8) (c : Colour) :
    paintBit old k c = old ↔ old.getLsbD k = decide (c = .light) := by
  refine ⟨fun h => ?_, fun h => BitVec.eq_of_getLsbD_eq fun i hi => ?_⟩
  · rw [← h, getLsbD_paintBit _ _ hk hk, if_pos rfl]
  · rw [getLsbD_paintBit _ _ hk hi]
    split
    · rename_i hik
      rw [hik, h]
    · rfl

/-- Everything the read-modify-write of SETPIX can do. -/
theorem paint_spec (s : State) (a y : Nat) (new : Byte) :
    ∃ m d, s.paint a y (Memory.read s.fb a) new = { s with fb := m, dirty := d } ∧ Memory.read m a = new ∧
      (∀ b, b ≠ a → Memory.read m b = Memory.read s.fb b) ∧
      (∀ l, l < 240 → dirtyBit d l = (dirtyBit s.dirty l || decide (l = y ∧ new ≠ Memory.read s.fb a))) ∧
      (new = Memory.read s.fb a → m = s.fb ∧ d = s.dirty) := by
  unfold State.paint
  by_cases hn : new = Memory.read s.fb a
  · exact ⟨s.fb, s.dirty, by rw [if_pos hn], hn.symm, fun _ _ => rfl, by simp [hn], fun _ => ⟨rfl, rfl⟩⟩
  · refine ⟨Memory.write s.fb a new, markLine s.dirty y, by rw [if_neg hn]; rfl, by simp,
      fun b hb => Memory.read_write_ne _ _ hb, fun l hl => ?_, fun h => absurd h hn⟩
    rw [dirtyBit_markLine _ hl]
    simp [hn]

/-- The framebuffer access of an in-grid pixel answers. -/
theorem fbLoad_pixel (m : Memory) {x y : Word} (h : inGrid x y = true) :
    fbLoad m (byteAddr (pixelIndex x) (pixelIndex y)) =
      some (Memory.read m (byteAddr (pixelIndex x) (pixelIndex y))) :=
  fbLoad_of_lt m (byteAddr_lt h)

end Sys2Proof.Machine
end

