-- ==== Sys2Proof/Laws/PerInstr.lean ====
section
/-! SUPPORT. Properties of each instruction as syntax, one lemma per constructor. -/

namespace Sys2Proof.Laws

/-- The encoding of a well-formed instruction has its table row's length, CRC16's data bytes on top of it (R60, R73). -/
def EncodedLength.Statement (i : Instr) : Prop :=
  wellFormed i = true → (encode i).length = (tableRow i).bytes + (match i with
    | .crc16 data => data.length
    | _ => 0)

theorem EncodedLength.mrqR (addr : Byte) (reg crc : Word) : EncodedLength.Statement (.mrqR addr reg crc) :=
  fun _ => rfl

theorem EncodedLength.mrsR (addr : Byte) (val crc : Word) : EncodedLength.Statement (.mrsR addr val crc) :=
  fun _ => rfl

theorem EncodedLength.mrqW (addr : Byte) (reg val crc : Word) : EncodedLength.Statement (.mrqW addr reg val crc) :=
  fun _ => rfl

theorem EncodedLength.mrsW (addr : Byte) (reg val crc : Word) : EncodedLength.Statement (.mrsW addr reg val crc) :=
  fun _ => rfl

theorem EncodedLength.mrsX (addr : Byte) (fn : BitVec 7) (code : Byte) (crc : Word) : EncodedLength.Statement (.mrsX addr fn code crc) :=
  fun _ => rfl

theorem EncodedLength.dcl (p : Bool) : EncodedLength.Statement (.dcl p) := fun _ => rfl

theorem EncodedLength.dtg (p : Bool) : EncodedLength.Statement (.dtg p) := fun _ => rfl

theorem EncodedLength.dwrHeader (p : Bool) : EncodedLength.Statement (.dwrHeader p) := fun _ => rfl

theorem EncodedLength.dwrLine (line : Byte) (pixels : List Byte) : EncodedLength.Statement (.dwrLine line pixels) := fun h => by
  have hl : pixels.length = 50 := of_decide_eq_true h
  simp [encode, lineRecord, tableRow, hl]

theorem EncodedLength.dwrTrailer : EncodedLength.Statement .dwrTrailer := fun _ => rfl

theorem EncodedLength.crc16 (data : List Byte) : EncodedLength.Statement (.crc16 data) := fun _ => by
  simp [encode, bigEndian16, tableRow]
  omega

theorem EncodedLength.rdhr (reg : Word) : EncodedLength.Statement (.rdhr reg) := fun _ => rfl

theorem EncodedLength.wrsr (reg val : Word) : EncodedLength.Statement (.wrsr reg val) := fun _ => rfl

theorem EncodedLength.getempty : EncodedLength.Statement .getempty := fun _ => rfl

theorem EncodedLength.getlevel : EncodedLength.Statement .getlevel := fun _ => rfl

theorem EncodedLength.getinst : EncodedLength.Statement .getinst := fun _ => rfl

theorem EncodedLength.setinst (val : Word) : EncodedLength.Statement (.setinst val) := fun _ => rfl

theorem EncodedLength.getaddr : EncodedLength.Statement .getaddr := fun _ => rfl

theorem EncodedLength.setaddr (a : Byte) : EncodedLength.Statement (.setaddr a) := fun _ => rfl

theorem EncodedLength.getbaud : EncodedLength.Statement .getbaud := fun _ => rfl

theorem EncodedLength.setbaud (baud : BitVec 32) : EncodedLength.Statement (.setbaud baud) := fun _ => rfl

theorem EncodedLength.getrange : EncodedLength.Statement .getrange := fun _ => rfl

theorem EncodedLength.setrange (val : Word) : EncodedLength.Statement (.setrange val) := fun _ => rfl

theorem EncodedLength.drain : EncodedLength.Statement .drain := fun _ => rfl

theorem EncodedLength.setpix (x y : Word) (c : Colour) : EncodedLength.Statement (.setpix x y c) :=
  fun _ => rfl

theorem EncodedLength.getpix (x y : Word) : EncodedLength.Statement (.getpix x y) := fun _ => rfl

theorem EncodedLength.clearto (c : Colour) (mark : Bool) : EncodedLength.Statement (.clearto c mark) :=
  fun _ => rfl

theorem EncodedLength.markall : EncodedLength.Statement .markall := fun _ => rfl

theorem EncodedLength.size : EncodedLength.Statement .size := fun _ => rfl

theorem EncodedLength.hwclear : EncodedLength.Statement .hwclear := fun _ => rfl

theorem EncodedLength.toggle : EncodedLength.Statement .toggle := fun _ => rfl

theorem EncodedLength.flush : EncodedLength.Statement .flush := fun _ => rfl

end Sys2Proof.Laws
end

