-- ==== Sys2Proof/Laws/Serial.lean ====
section
/-! SUPPORT. The serial transport and the Modbus client's shared operations: what each can do, said once. -/

namespace Sys2Proof.Machine

/-! ## SerWrite -/

/-- A settled answer is the next one. -/
theorem nextSerAnswer_of_script {s : State} {a : SerWriteAnswer} {rest : List SerWriteAnswer}
    (h : s.serWriteScript = a :: rest) : nextSerAnswer s = a := by
  unfold nextSerAnswer
  rw [h]

theorem serWrite_of_ok {s : State} (h : nextSerAnswer s = .ok) (tx : List Byte) :
    serWrite tx s = (.ok, s.serAnswered.sendSerial tx) := by
  unfold serWrite
  rw [h]

theorem serWrite_of_fail {s : State} {n : Nat} (h : nextSerAnswer s = .fail n) (tx : List Byte) :
    serWrite tx s = (.fail n, s.serAnswered.sendSerial (tx.take n)) := by
  unfold serWrite
  rw [h]

/-- A write to the serial transport answers the next answer and touches the transport only. -/
theorem serWrite_spec (tx : List Byte) (s : State) :
    ∃ sent, serWrite tx s = (nextSerAnswer s, s.serAnswered.sendSerial sent) ∧
      (nextSerAnswer s = .ok → sent = tx) := by
  cases h : nextSerAnswer s with
  | ok => exact ⟨tx, serWrite_of_ok h tx, fun _ => rfl⟩
  | fail n => exact ⟨tx.take n, serWrite_of_fail h tx, by simp⟩

/-! ## What the transport supplies -/

@[simp] theorem supplyMore_false (s : State) : s.supplyMore false = s := rfl

/-- Where what waits runs dry, a free list of events comes behind it, and one draw is taken. -/
theorem supplyMore_true (s : State) :
    s.supplyMore true = { s with
      serialRx := s.serialRx ++ Config.serSupply s.serDraws, serDraws := s.serDraws + 1 } := rfl

/-- Everything a supply can do to the state. -/
theorem supplyMore_spec (b : Bool) (s : State) :
    ∃ q draws, s.supplyMore b = { s with serialRx := q, serDraws := draws } := by
  cases b
  · exact ⟨s.serialRx, s.serDraws, rfl⟩
  · exact ⟨_, _, rfl⟩

theorem noStop_append (a b : List RxEvent) : noStop (a ++ b) = (noStop a && noStop b) := List.all_append

theorem noStop_chunks {chunks : List (List Byte)} (h : ∀ c ∈ chunks, c ≠ []) :
    noStop (chunks.map RxEvent.data) = true := by
  simpa [noStop] using h

/-- A zero-length read or a failure that waits ends the reads: nothing more is drawn. -/
theorem noStop_of_stop (a q : List RxEvent) : noStop (a ++ .data [] :: q) = false ∧ noStop (a ++ .fail :: q) = false := by
  constructor <;> simp [noStop]

theorem waitingBytes_append (a b : List RxEvent) : waitingBytes (a ++ b) = waitingBytes a + waitingBytes b := by
  induction a with
  | nil => simp [waitingBytes]
  | cons x a ih =>
    cases x
    · simp only [List.cons_append, waitingBytes, ih]
      omega
    · simp only [List.cons_append, waitingBytes, ih]

theorem waitingBytes_chunks (chunks : List (List Byte)) :
    waitingBytes (chunks.map .data) = chunks.flatten.length := by
  induction chunks with
  | nil => rfl
  | cons c chunks ih => simp only [List.map_cons, waitingBytes, ih, List.flatten_cons, List.length_append]

/-- What waits does not fall short where it has the bytes. -/
theorem fallsShort_of_enough {n : Nat} {chunks : List (List Byte)} (q : List RxEvent) (h : n ≤ chunks.flatten.length) :
    fallsShort n (chunks.map RxEvent.data ++ q) = false := by
  have hn : ¬ waitingBytes (chunks.map RxEvent.data ++ q) < n := by
    rw [waitingBytes_append, waitingBytes_chunks]
    omega
  simp [fallsShort, hn]

/-- What waits does not fall short where it has a zero-length read or a failure. -/
theorem fallsShort_of_stop (n : Nat) (a q : List RxEvent) :
    fallsShort n (a ++ .data [] :: q) = false ∧ fallsShort n (a ++ .fail :: q) = false := by
  simp [fallsShort, noStop_of_stop]

/-- What waits does not fall short where it supplies the bytes. -/
theorem fallsShort_of_supplies {s : State} {rx : List Byte} {rest : List RxEvent} (h : supplies s rx rest) :
    fallsShort rx.length s.serialRx = false := by
  obtain ⟨chunks, last, extra, q, -, -, rfl, hq, -⟩ := h
  rw [hq, show chunks.map RxEvent.data ++ .data (last ++ extra) :: q =
    (chunks ++ [last ++ extra]).map RxEvent.data ++ q by simp]
  exact fallsShort_of_enough q (by simp)

/-! ## SerRead -/

@[simp] theorem serRead_nil (n : Nat) : serRead n [] = (.data [], []) := rfl

@[simp] theorem serRead_fail (n : Nat) (q : List RxEvent) : serRead n (.fail :: q) = (.fail, q) := rfl

theorem serRead_data_le {n : Nat} {bytes : List Byte} (q : List RxEvent) (h : bytes.length ≤ n) :
    serRead n (.data bytes :: q) = (.data bytes, q) := by simp [serRead, h]

theorem serRead_data_gt {n : Nat} {bytes : List Byte} (q : List RxEvent) (h : n < bytes.length) :
    serRead n (.data bytes :: q) = (.data (bytes.take n), .data (bytes.drop n) :: q) := by
  simp [serRead, Nat.not_le.mpr h]

/-! ## READEXACT -/

@[simp] theorem readLoop_done (fuel : Nat) (rx : List Byte) (q : List RxEvent) :
    readLoop fuel 0 rx q = (.ok rx, q) := by
  unfold readLoop
  simp

theorem readLoop_chunk {fuel missing : Nat} {rx c : List Byte} {q : List RxEvent} (hc : c ≠ [])
    (hle : c.length ≤ missing) :
    readLoop (fuel + 1) missing rx (.data c :: q) = readLoop fuel (missing - c.length) (rx ++ c) q := by
  have hm : missing ≠ 0 := by
    have := List.length_pos_iff.mpr hc
    omega
  rw [readLoop.eq_def, if_neg hm, serRead_data_le q hle]
  cases c with
  | nil => exact absurd rfl hc
  | cons b c => rfl

/-- A round that cannot take a byte ends the loop. -/
theorem readLoop_stop {fuel missing : Nat} {rx : List Byte} {q : List RxEvent} (hm : missing ≠ 0) :
    readLoop (fuel + 1) missing rx [] = (.error .timeout, []) ∧
    readLoop (fuel + 1) missing rx (.data [] :: q) = (.error .timeout, q) ∧
    readLoop (fuel + 1) missing rx (.fail :: q) = (.error .io, q) := by
  refine ⟨?_, ?_, ?_⟩ <;> rw [readLoop.eq_def, if_neg hm]
  · rfl
  · rw [serRead_data_le q (Nat.zero_le _)]
  · rfl

/-- Chunks that do not reach the count are all taken, in order. -/
theorem readLoop_chunks (chunks : List (List Byte)) (q : List RxEvent) (hc : ∀ c ∈ chunks, c ≠ []) :
    ∀ (fuel missing : Nat) (rx : List Byte), missing ≤ fuel → chunks.flatten.length ≤ missing →
      ∃ fuel', missing - chunks.flatten.length ≤ fuel' ∧
        readLoop fuel missing rx (chunks.map RxEvent.data ++ q) =
          readLoop fuel' (missing - chunks.flatten.length) (rx ++ chunks.flatten) q := by
  induction chunks with
  | nil => exact fun fuel missing rx hf _ => ⟨fuel, by simpa using hf, by simp⟩
  | cons c chunks ih =>
    intro fuel missing rx hf hlen
    have hcne : c ≠ [] := hc c (by simp)
    have hcpos : 0 < c.length := List.length_pos_iff.mpr hcne
    rw [List.flatten_cons, List.length_append] at hlen
    obtain ⟨fuel, rfl⟩ : ∃ k, fuel = k + 1 := ⟨fuel - 1, by omega⟩
    obtain ⟨fuel', hle, heq⟩ := ih (fun d hd => hc d (by simp [hd])) fuel (missing - c.length) (rx ++ c)
      (by omega) (by omega)
    refine ⟨fuel', ?_, ?_⟩
    · rw [List.flatten_cons, List.length_append]
      omega
    · rw [List.map_cons, List.cons_append, readLoop_chunk hcne (by omega), heq, List.flatten_cons,
        List.length_append, List.append_assoc, Nat.sub_sub]

/-- READEXACT answers n bytes, `Timeout` or `Io`. -/
theorem readLoop_spec (fuel missing : Nat) (rx : List Byte) (q : List RxEvent) :
    (∃ bytes, (readLoop fuel missing rx q).1 = .ok bytes) ∨ (readLoop fuel missing rx q).1 = .error .timeout ∨
      (readLoop fuel missing rx q).1 = .error .io := by
  induction fuel generalizing missing rx q with
  | zero =>
    rw [readLoop.eq_def]
    split <;> simp
  | succ fuel ih =>
    rw [readLoop.eq_def]
    split
    · simp
    · simp only
      split
      · simp
      · simp
      · exact ih _ _ _

/-! ## EXCHANGE and the register accesses -/

/-- A read from what waits, where that does not fall short. -/
theorem receiveExact_of_settled {n : Nat} {s : State} (h : fallsShort n s.serialRx = false) :
    receiveExact n s = ((readExact n s.serialRx).1, s.setSerialRx (readExact n s.serialRx).2) := by
  unfold receiveExact
  rw [h]
  rfl

/-- Everything a read of n bytes can do to the state: what the transport holds changes, and a draw may be taken. -/
theorem receiveExact_spec (n : Nat) (s : State) :
    ∃ q q' draws, receiveExact n s = ((readExact n q).1, { s with serialRx := q', serDraws := draws }) := by
  obtain ⟨q, draws, h⟩ := supplyMore_spec (fallsShort n s.serialRx) s
  refine ⟨q, (readExact n q).2, draws, ?_⟩
  unfold receiveExact
  rw [h]
  rfl

/-- An exchange touches the serial transport only: an answer is taken, a part of the request goes out, and what the
transport holds changes. -/
theorem exchange_spec (tx : List Byte) (n : Nat) (s : State) :
    ∃ sent q draws, (exchange tx n s).2 =
      { s.serAnswered with serialOut := s.serialOut ++ sent, serialRx := q, serDraws := draws } := by
  obtain ⟨sent, hw, -⟩ := serWrite_spec tx s
  unfold exchange
  rw [hw]
  cases nextSerAnswer s with
  | ok =>
    obtain ⟨_, q, draws, h⟩ := receiveExact_spec n (s.serAnswered.sendSerial sent)
    refine ⟨sent, q, draws, ?_⟩
    simp only [h]
    rfl
  | fail k => exact ⟨sent, s.serialRx, s.serAnswered.serDraws, rfl⟩

/-- An exchange whose write is accepted, where what waits does not fall short, writes the request and reads exactly
what READEXACT reads from it. -/
theorem exchange_of_ok {s : State} (h : nextSerAnswer s = .ok) (tx : List Byte) {n : Nat}
    (hs : fallsShort n s.serialRx = false) :
    exchange tx n s = ((readExact n s.serialRx).1,
      { s.serAnswered with serialOut := s.serialOut ++ tx, serialRx := (readExact n s.serialRx).2 }) := by
  unfold exchange
  rw [serWrite_of_ok h]
  exact receiveExact_of_settled (s := s.serAnswered.sendSerial tx) hs

/-- The request of an accepted exchange goes out whole, whatever comes back. -/
theorem exchange_serialOut {s : State} (h : nextSerAnswer s = .ok) (tx : List Byte) (n : Nat) :
    (exchange tx n s).2.serialOut = s.serialOut ++ tx := by
  unfold exchange
  rw [serWrite_of_ok h]
  obtain ⟨q, q', draws, hr⟩ := receiveExact_spec n (s.serAnswered.sendSerial tx)
  simp only [hr]
  rfl

/-- An exchange whose write fails is `Io` and reads nothing. -/
theorem exchange_of_fail {s : State} {k : Nat} (h : nextSerAnswer s = .fail k) (tx : List Byte) (n : Nat) :
    exchange tx n s = (.error .io, { s.serAnswered with serialOut := s.serialOut ++ tx.take k }) := by
  unfold exchange
  rw [serWrite_of_fail h]
  rfl

/-- The state after a register read: the transport's I/O and nothing else. -/
theorem modbusRead_state (reg : Word) (s : State) :
    (modbusRead reg s).2 = (exchange (sealFrame (readRequestBody s.devAddr reg)) Config.readRspLen s).2 := by
  unfold modbusRead
  rcases h : exchange (sealFrame (readRequestBody s.devAddr reg)) Config.readRspLen s with ⟨r, s'⟩
  cases r with
  | error k => rfl
  | ok rx =>
    simp only
    split <;> rfl

/-- The state after a register write: the transport's I/O and nothing else. -/
theorem modbusWrite_state (reg val : Word) (s : State) :
    (modbusWrite reg val s).2 = (exchange (sealFrame (writeRequestBody s.devAddr reg val)) Config.writeRspLen s).2 := by
  unfold modbusWrite
  rcases h : exchange (sealFrame (writeRequestBody s.devAddr reg val)) Config.writeRspLen s with ⟨r, s'⟩
  cases r <;> rfl

/-- Everything a register read can do to the state. -/
theorem modbusRead_spec (reg : Word) (s : State) :
    ∃ sent q draws, (modbusRead reg s).2 =
      { s.serAnswered with serialOut := s.serialOut ++ sent, serialRx := q, serDraws := draws } := by
  rw [modbusRead_state]
  exact exchange_spec _ _ s

/-- Everything a register write can do to the state. -/
theorem modbusWrite_spec (reg val : Word) (s : State) :
    ∃ sent q draws, (modbusWrite reg val s).2 =
      { s.serAnswered with serialOut := s.serialOut ++ sent, serialRx := q, serDraws := draws } := by
  rw [modbusWrite_state]
  exact exchange_spec _ _ s

/-- A read operation ends in `Ok(v)` or in an error, recorded after the transport's I/O. -/
theorem finishRead_spec (r : Except ErrorKind Word × State) :
    (∃ v, finishRead r = r.2.finish (.okValue v)) ∨ ∃ k, r.1 = .error k ∧ finishRead r = r.2.raise k := by
  rcases r with ⟨(k | v), s⟩
  · exact .inr ⟨k, rfl, rfl⟩
  · exact .inl ⟨v, rfl⟩

/-- A write operation ends in `Ok` or in an error, recorded after the transport's I/O. -/
theorem finishWrite_spec (r : Option ErrorKind × State) :
    (r.1 = none ∧ finishWrite r = r.2.finish .ok) ∨ ∃ k, r.1 = some k ∧ finishWrite r = r.2.raise k := by
  rcases r with ⟨(_ | k), s⟩
  · exact .inl ⟨rfl, rfl⟩
  · exact .inr ⟨k, rfl, rfl⟩

/-- Validation of a sealed frame compares its last two bytes with the CRC it was sealed with. -/
theorem sealFrame_eq_withCrc (body : List Byte) : sealFrame body = withCrc body := rfl

theorem validate_bus_free (devAddr : Byte) (rx : List Byte) (n : Nat) (fn : Byte) (e : BusError) :
    validate devAddr rx n fn ≠ some (.bus e) := by
  unfold validate
  repeat' split
  all_goals simp

/-! ## The operations that do an exchange -/

/-- A read operation is one read of its register. -/
theorem exec_of_readRegister {i : Instr} {reg : Word} (h : readRegister i = some reg) (s : State) :
    exec i s = .next (finishRead (modbusRead reg s)) := by
  cases i <;> cases h <;> rfl

/-- A write operation is one write of its register; SETADDR takes the new address at its end. -/
theorem exec_of_writtenRegister {i : Instr} {reg val : Word} (h : writtenRegister i = some (reg, val)) (s : State) :
    (∃ a, i = .setaddr a ∧ exec i s = .next (finishSetaddr a (modbusWrite reg val s))) ∨
      addressWritten i s = s.devAddr ∧ exec i s = .next (finishWrite (modbusWrite reg val s)) := by
  cases i with
  | setaddr a =>
    simp only [writtenRegister] at h
    split at h
    · rename_i hl
      cases h
      exact .inl ⟨a, rfl, by simp only [exec, execSetaddr, hl, if_true]⟩
    · cases h
  | setbaud baud =>
    simp only [writtenRegister] at h
    split at h
    · rename_i hl
      cases h
      exact .inr ⟨rfl, by simp only [exec, execSetbaud, hl, if_true]⟩
    · cases h
  | wrsr | setinst | setrange => cases h; exact .inr ⟨rfl, rfl⟩
  | _ => cases h

/-- An operation whose exchange ends in an error returns that error after the exchange's I/O. -/
theorem exec_of_exchange_error {i : Instr} {s t : State} {tx : List Byte} {n : Nat} {k : ErrorKind}
    (h : requestOf i s = some (tx, n)) (he : exchange tx n s = (.error k, t)) : exec i s = .next (t.raise k) := by
  unfold requestOf at h
  split at h
  · rename_i reg hr
    cases h
    have hm : modbusRead reg s = (.error k, t) := by
      unfold modbusRead
      rw [show exchange (sealFrame (readRequestBody s.devAddr reg)) Config.readRspLen s = (.error k, t) from he]
    rw [exec_of_readRegister hr, hm]
    rfl
  · split at h
    · rename_i reg val hw
      cases h
      have hm : modbusWrite reg val s = (some k, t) := by
        unfold modbusWrite
        rw [show exchange (sealFrame (writeRequestBody s.devAddr reg val)) Config.writeRspLen s = (.error k, t) from he]
      rcases exec_of_writtenRegister hw s with ⟨a, -, h⟩ | ⟨-, h⟩ <;> rw [h, hm] <;> rfl
    · cases h

/-! ## Good responses -/

/-- Every frame sealed with its checksum passes the CRC check of VALIDATE. -/
theorem withCrc_checks (body : List Byte) {n : Nat} (hn : n = body.length + 2) :
    crc16 ((withCrc body).take (n - 2)) = le16 ((withCrc body).getD (n - 2) 0) ((withCrc body).getD (n - 1) 0) := by
  subst hn
  simp [withCrc, List.getD_eq_getElem?_getD]

/-- The read response of the addressed device is good. -/
theorem validate_readResponse (a : Byte) (v : Word) : validate a (readResponse a v) 7 0x03 = none := by
  unfold validate readResponse
  rw [if_neg (not_not.mpr (withCrc_checks [a, 3, 2, hi v, lo v] (n := 7) rfl))]
  simp [withCrc, Config.excBit, Config.fnRead, Config.readByteCount]

/-- The write response of the addressed device is good, whatever register and value it echoes (R107). -/
theorem validate_writeRequest (a : Byte) (reg v : Word) : validate a (writeRequest a reg v) 8 0x06 = none := by
  unfold validate writeRequest
  rw [if_neg (not_not.mpr (withCrc_checks [a, 6, hi reg, lo reg, hi v, lo v] (n := 8) rfl))]
  simp [withCrc, Config.excBit, Config.fnRead]

/-- The exception bit of the function byte is its bit 7. -/
theorem excBit_iff : ∀ b : Byte, b &&& Config.excBit ≠ 0 ↔ b.getLsbD 7 = true := by decide

/-! ## The drain -/

/-- The printable bytes as numbers (D25). -/
theorem printable_iff (b : Byte) : printable b = true ↔ 0x20 ≤ b.toNat ∧ b.toNat ≤ 0x7E := by
  simp only [printable, decide_eq_true_eq, BitVec.le_def]
  rfl

theorem drainText_append (a b line : List Byte) : drainText line (a ++ b) =
    ((drainText line a).1 ++ (drainText (drainText line a).2 b).1, (drainText (drainText line a).2 b).2) := by
  induction a generalizing line with
  | nil => simp [drainText]
  | cons x a ih =>
    simp only [List.cons_append, drainText]
    split
    · simp [ih]
    · split <;> simp [ih]

/-- One chunk, read byte by byte. -/
theorem drainLoop_chunk (c : List Byte) (q : List RxEvent) : ∀ (fuel : Nat) (line : List Byte) (lines : List (List Byte)),
    c ≠ [] → drainLoop (fuel + c.length) line lines (.data c :: q) =
      drainLoop fuel (drainText line c).2 (lines ++ (drainText line c).1) q := by
  induction c with
  | nil => exact fun _ _ _ h => absurd rfl h
  | cons b c ih =>
    intro fuel line lines _
    obtain ⟨q', hread, hnil, hcons⟩ : ∃ q', serRead 1 (.data (b :: c) :: q) = (.data [b], q') ∧
        (c = [] → q' = q) ∧ (c ≠ [] → q' = .data c :: q) := by
      cases c with
      | nil => exact ⟨q, by simp [serRead], fun _ => rfl, fun h => absurd rfl h⟩
      | cons d c => exact ⟨.data (d :: c) :: q, by simp [serRead], by simp, fun _ => rfl⟩
    have hrest : ∀ line lines, drainLoop (fuel + c.length) line lines q' =
        drainLoop fuel (drainText line c).2 (lines ++ (drainText line c).1) q := by
      intro line lines
      by_cases hc : c = []
      · rw [hnil hc, hc]
        simp [drainText]
      · rw [hcons hc]
        exact ih fuel line lines hc
    rw [List.length_cons, ← Nat.add_assoc, drainLoop, hread]
    simp only
    unfold drainText
    by_cases hb : b = 0x0A
    · rw [if_pos hb, if_pos hb, hrest]
      simp
    · rw [if_neg hb, if_neg hb]
      by_cases hp : printable b = true
      · rw [if_pos hp, if_pos ((printable_iff b).mp hp), hrest]
      · rw [if_neg hp, if_neg fun h => hp ((printable_iff b).mpr h), hrest]

/-- A sequence of chunks, read byte by byte. -/
theorem drainLoop_chunks (chunks : List (List Byte)) (q : List RxEvent) (h : ∀ c ∈ chunks, c ≠ []) :
    ∀ (fuel : Nat) (line : List Byte) (lines : List (List Byte)),
      drainLoop (fuel + chunks.flatten.length) line lines (chunks.map .data ++ q) =
        drainLoop fuel (drainText line chunks.flatten).2 (lines ++ (drainText line chunks.flatten).1) q := by
  induction chunks with
  | nil => simp [drainText]
  | cons c chunks ih =>
    intro fuel line lines
    rw [List.flatten_cons, List.length_append, Nat.add_comm c.length, ← Nat.add_assoc, List.map_cons,
      List.cons_append, drainLoop_chunk c _ _ _ _ (h c (by simp)), ih (fun d hd => h d (by simp [hd])),
      drainText_append]
    simp

/-- Lines already completed stay first, whatever the drain reads after them. -/
theorem drainLoop_keeps_lines (fuel : Nat) (line : List Byte) (lines : List (List Byte)) (q : List RxEvent) :
    ∃ more rest, drainLoop fuel line lines q = (lines ++ more, rest) := by
  induction fuel generalizing line lines q with
  | zero => exact ⟨[], q, by simp [drainLoop]⟩
  | succ fuel ih =>
    rw [drainLoop]
    split
    · split
      · obtain ⟨more, rest, h⟩ := ih [] (lines ++ [line]) _
        exact ⟨[line] ++ more, rest, by rw [h, List.append_assoc]⟩
      · split <;> exact ih _ _ _
    · exact ⟨_, _, rfl⟩

/-- The drain of chunks and then a queue: the chunks' text first. -/
theorem drainAll_chunks {chunks : List (List Byte)} (h : ∀ c ∈ chunks, c ≠ []) (q : List RxEvent) :
    drainAll (chunks.map .data ++ q) =
      drainLoop (waitingBytes q + 1) (drainText [] chunks.flatten).2 (drainText [] chunks.flatten).1 q := by
  unfold drainAll
  rw [waitingBytes_append, waitingBytes_chunks, Nat.add_assoc, Nat.add_comm chunks.flatten.length,
    drainLoop_chunks chunks q h, List.nil_append]

/-- A queue is chunks of at least one byte, then nothing, a zero-length read or a failure. -/
theorem queue_cases (q : List RxEvent) :
    ∃ chunks : List (List Byte), (∀ c ∈ chunks, c ≠ []) ∧ (q = chunks.map .data ∨
      ∃ rest, q = chunks.map .data ++ .data [] :: rest ∨ q = chunks.map .data ++ .fail :: rest) := by
  induction q with
  | nil => exact ⟨[], by simp, .inl rfl⟩
  | cons e q ih =>
    match e with
    | .fail => exact ⟨[], by simp, .inr ⟨q, .inr rfl⟩⟩
    | .data [] => exact ⟨[], by simp, .inr ⟨q, .inl rfl⟩⟩
    | .data (b :: bytes) =>
      obtain ⟨chunks, hc, h⟩ := ih
      refine ⟨(b :: bytes) :: chunks, by simpa using hc, ?_⟩
      rcases h with rfl | ⟨rest, rfl | rfl⟩
      · exact .inl rfl
      · exact .inr ⟨rest, .inl rfl⟩
      · exact .inr ⟨rest, .inr rfl⟩

/-- What a drain leaves in the queue is a last part of it. -/
theorem drainLoop_suffix (fuel : Nat) (line : List Byte) (lines : List (List Byte)) (q : List RxEvent)
    (hf : waitingBytes q < fuel) : (drainLoop fuel line lines q).2 <:+ q := by
  obtain ⟨chunks, hc, h⟩ := queue_cases q
  have hlen : chunks.flatten.length ≤ waitingBytes q := by
    rcases h with rfl | ⟨rest, rfl | rfl⟩ <;> simp [waitingBytes_append, waitingBytes_chunks]
  obtain ⟨fuel, rfl⟩ : ∃ k, fuel = k + 1 + chunks.flatten.length := ⟨fuel - 1 - chunks.flatten.length, by omega⟩
  rcases h with rfl | ⟨rest, rfl | rfl⟩
  · rw [← List.append_nil (chunks.map RxEvent.data), drainLoop_chunks chunks _ hc, drainLoop]
    exact List.nil_suffix
  · rw [drainLoop_chunks chunks _ hc, drainLoop]
    exact ⟨chunks.map .data ++ [.data []], by simp [serRead]⟩
  · rw [drainLoop_chunks chunks _ hc, drainLoop]
    exact ⟨chunks.map .data ++ [.fail], by simp [serRead]⟩

/-- Everything a drain can do to the state: what the transport holds and the log change, and a draw may be taken. -/
theorem drainTransport_spec (s : State) :
    ∃ q draws lines, drainTransport s = { s with serialRx := q, serDraws := draws, logOut := s.logOut ++ lines } := by
  obtain ⟨q, draws, h⟩ := supplyMore_spec (noStop s.serialRx) s
  refine ⟨(drainAll q).2, draws, (drainAll q).1, ?_⟩
  unfold drainTransport
  rw [h]
  rfl

end Sys2Proof.Machine
end

