-- ==== Sys2Proof/Laws/Table.lean ====
section
/-! SUPPORT. Byte sequences as the opcode table's numbers: masking works byte by byte. -/

namespace Sys2Proof

theorem land_byte_digit (a b : Nat) (x y : Byte) :
    (a * 256 + x.toNat) &&& (b * 256 + y.toNat) = (a &&& b) * 256 + (x &&& y).toNat := by
  have hx : x.toNat < 2 ^ 8 := x.isLt
  have hy : y.toNat < 2 ^ 8 := y.isLt
  have hxy : (x &&& y).toNat < 2 ^ 8 := (x &&& y).isLt
  refine Nat.eq_of_testBit_eq fun i => ?_
  rw [Nat.testBit_and, show a * 256 = 2 ^ 8 * a by omega, show b * 256 = 2 ^ 8 * b by omega,
    show (a &&& b) * 256 = 2 ^ 8 * (a &&& b) by omega, Nat.testBit_two_pow_mul_add _ hx,
    Nat.testBit_two_pow_mul_add _ hy, Nat.testBit_two_pow_mul_add _ hxy]
  split
  · rw [BitVec.toNat_and, Nat.testBit_and]
  · rw [Nat.testBit_and]

/-- The number of a byte sequence masked by the number of another of the same length. -/
theorem bytesNumber_land (xs ms : List Byte) (h : xs.length = ms.length) :
    bytesNumber xs &&& bytesNumber ms = bytesNumber (List.zipWith (· &&& ·) xs ms) := by
  have key : ∀ (xs ms : List Byte) (a b : Nat), xs.length = ms.length →
      xs.foldl (fun n c => n * 256 + c.toNat) a &&& ms.foldl (fun n c => n * 256 + c.toNat) b =
        (List.zipWith (· &&& ·) xs ms).foldl (fun n c => n * 256 + c.toNat) (a &&& b) := by
    intro xs
    induction xs with
    | nil =>
      intro ms a b h
      cases ms with
      | nil => rfl
      | cons m ms => simp at h
    | cons x xs ih =>
      intro ms a b h
      cases ms with
      | nil => simp at h
      | cons m ms =>
        simp only [List.foldl_cons, List.zipWith_cons_cons]
        rw [ih ms _ _ (by simpa using h), land_byte_digit]
  exact key xs ms 0 0 h

theorem bytesNumber_append_byte (xs : List Byte) (b : Byte) :
    bytesNumber (xs ++ [b]) = bytesNumber xs * 256 + b.toNat := by
  simp [bytesNumber, List.foldl_append]

end Sys2Proof
end

