-- ==== Sys2Proof/Tests/Slice0.lean ====
section
/-! SUPPORT. The model's own tests: well-formedness, words written out from the spec's encodings, one-step behaviour
against spec/95_test_vectors.md (each test names its vector), and one witness for each statement with hypotheses. -/

namespace Sys2Proof.Tests

open Sys2Proof.Machine

/-! ## Helpers -/

/-- A block at device address 0x01 with an all-zero framebuffer; each transport takes the next write. -/
def base : State where
  devAddr := 0x01
  p := false
  scs := false
  fb := []
  dirty := 0#240
  panel := panelAll none
  openWrite := none
  hostCalls := []
  crossings := []
  serialRx := []
  serWriteScript := [.ok]
  busScript := [.ok]
  serDraws := 0
  busDraws := 0
  results := []
  serialOut := []
  busOut := []
  logOut := []

/-- `base` with the transport holding these chunks. -/
def supplied (chunks : List (List Byte)) : State := { base with serialRx := chunks.map .data }

/-- `base` with a serial transport that is silent at the next read. -/
def silent : State := supplied [[]]

/-- `base` with line 2 holding F7 and 49 zeros, and dirty. -/
def drawn : State := { base with fb := [(100, 0xF7)], dirty := markLine 0#240 2 }

/-- The next state of an outcome. -/
def nextOf (o : Host.Outcome State Fault Refusal) : Option State :=
  match o with
  | .next t => some t
  | .fault _ => none
  | .refused _ => none

/-- The refusal of an outcome. -/
def refusalOf (o : Host.Outcome State Fault Refusal) : Option Refusal :=
  match o with
  | .next _ => none
  | .fault _ => none
  | .refused r => some r

/-- The bytes of line 2 of `drawn`. -/
def lineOfF7 : List Byte := 0xF7 :: List.replicate 49 0x00

/-! ## Well-formedness -/

/-- R88: a CRC16 word holds at most 65535 bytes. -/
theorem test_crc16_of_65536_bytes_is_ill_formed : wellFormed (.crc16 (List.replicate 65536 0x00)) = false := by
  simp only [wellFormed, List.length_replicate]
  decide

/-- R70: a line record holds exactly 50 bytes. -/
theorem test_dwrLine_of_49_bytes_is_ill_formed : wellFormed (.dwrLine 0x01 (List.replicate 49 0x00)) = false := by
  decide

theorem test_dwrLine_of_51_bytes_is_ill_formed : wellFormed (.dwrLine 0x01 (List.replicate 51 0x00)) = false := by
  decide

/-! ## Words written out from the spec's encodings -/

/-- V-F3 and V-F10 (R62, R64). -/
theorem test_decode_request_frames :
    decode .toSensor [0x01, 0x03, 0x00, 0x03, 0x00, 0x01, 0x74, 0x0A] = .ok (.mrqR 0x01 0x0003 0x0A74) ∧
    decode .toSensor [0x01, 0x06, 0x00, 0x05, 0x03, 0xE8, 0x99, 0x75] = .ok (.mrqW 0x01 0x0005 0x03E8 0x7599) :=
  ⟨rfl, rfl⟩

/-- V-M1, V-M3, V-M8 and the frame of V-M16 cut to five bytes (R63 to R65). -/
theorem test_decode_response_frames :
    decode .fromSensor [0x01, 0x03, 0x02, 0x04, 0xD2, 0x3A, 0xD9] = .ok (.mrsR 0x01 0x04D2 0xD93A) ∧
    decode .fromSensor [0x01, 0x06, 0x00, 0x05, 0x03, 0xE8, 0x99, 0x75] = .ok (.mrsW 0x01 0x0005 0x03E8 0x7599) ∧
    decode .fromSensor [0x01, 0x83, 0x02, 0xC0, 0xF1] = .ok (.mrsX 0x01 0x03 0x02 0xF1C0) ∧
    decode .fromSensor [0x01, 0x86, 0x03, 0x02, 0x61] = .ok (.mrsX 0x01 0x06 0x03 0x6102) :=
  ⟨rfl, rfl, rfl, rfl⟩

/-- V-D1 to V-D4, and the parts of V-D6 (R68 to R70). -/
theorem test_decode_display_words :
    decode .display [0x04, 0x00] = .ok (.dcl false) ∧ decode .display [0x06, 0x00] = .ok (.dcl true) ∧
    decode .display [0x00, 0x00] = .ok (.dtg false) ∧ decode .display [0x02, 0x00] = .ok (.dtg true) ∧
    decode .display [0x01] = .ok (.dwrHeader false) ∧ decode .display [0x03] = .ok (.dwrHeader true) ∧
    decode .display (0x03 :: 0xF7 :: (List.replicate 49 0xFF ++ [0x00])) =
      .ok (.dwrLine 0x03 (0xF7 :: List.replicate 49 0xFF)) ∧
    decode .display [0x00] = .ok .dwrTrailer :=
  ⟨rfl, rfl, rfl, rfl, rfl, rfl, rfl, rfl⟩

/-- R73, and the command words of Programs 1, 4 and 5. -/
theorem test_decode_crc_and_modbus_commands :
    decode .host [0x01, 0x00, 0x02, 0xAB, 0xCD] = .ok (.crc16 [0xAB, 0xCD]) ∧
    decode .host [0x10, 0x00, 0x02] = .ok (.rdhr 0x0002) ∧
    decode .host [0x11, 0x00, 0x05, 0x03, 0xE8] = .ok (.wrsr 0x0005 0x03E8) :=
  ⟨rfl, rfl, rfl⟩

/-- R73, and the command words of Program 1. -/
theorem test_decode_facade_commands :
    decode .host [0x20] = .ok .getempty ∧ decode .host [0x21] = .ok .getlevel ∧ decode .host [0x22] = .ok .getinst ∧
    decode .host [0x23, 0x03, 0xE8] = .ok (.setinst 1000) ∧ decode .host [0x24] = .ok .getaddr ∧
    decode .host [0x25, 0x02] = .ok (.setaddr 0x02) ∧ decode .host [0x26] = .ok .getbaud ∧
    decode .host [0x27, 0x00, 0x01, 0xC2, 0x00] = .ok (.setbaud 115200) ∧ decode .host [0x28] = .ok .getrange ∧
    decode .host [0x29, 0x00, 0x05] = .ok (.setrange 5) ∧ decode .host [0x2A] = .ok .drain :=
  ⟨rfl, rfl, rfl, rfl, rfl, rfl, rfl, rfl, rfl, rfl, rfl⟩

/-- R73, and the command words of Programs 2 and 3. -/
theorem test_decode_framebuffer_commands :
    decode .host [0x40, 0x01, 0x8F, 0x00, 0xEF, 0x00] = .ok (.setpix 399 239 .dark) ∧
    decode .host [0x40, 0xFF, 0xFF, 0x00, 0x05, 0x01] = .ok (.setpix (-1) 5 .light) ∧
    decode .host [0x41, 0x00, 0x03, 0x00, 0x02] = .ok (.getpix 3 2) ∧
    decode .host [0x42, 0x01] = .ok (.clearto .light false) ∧ decode .host [0x42, 0x02] = .ok (.clearto .dark true) ∧
    decode .host [0x43] = .ok .markall ∧ decode .host [0x44] = .ok .size :=
  ⟨rfl, rfl, rfl, rfl, rfl, rfl, rfl⟩

/-- R73, and the command words of Programs 2 and 3. -/
theorem test_decode_display_commands :
    decode .host [0x50] = .ok .hwclear ∧ decode .host [0x51] = .ok .toggle ∧ decode .host [0x52] = .ok .flush :=
  ⟨rfl, rfl, rfl⟩

/-- R83: malformed command words. -/
theorem test_malformed_command_words :
    decode .host [] = .error .empty ∧ decode .host [0x53] = .error (.unknownSelector 0x53) ∧
    decode .host [0x21, 0x00] = .error (.wrongLength 0x21) ∧
    decode .host [0x01, 0x00, 0x02, 0xAB] = .error (.wrongLength 0x01) ∧
    decode .host [0x40, 0x00, 0x00, 0x00, 0x00, 0x02] = .error (.badColour 0x02) ∧
    decode .host [0x42, 0x04] = .error (.reservedBits 0x04) ∧ decode .display [0x05] = .error (.noWireForm .display) :=
  ⟨rfl, rfl, rfl, rfl, rfl, rfl, rfl⟩

/-- R60: the table's numbering, first byte most significant. -/
theorem test_table_words :
    decodeTableWord 64 0x010300030001740A = some (.mrqR 0x01 0x0003 0x0A74) ∧
    decodeTableWord 16 0x0600 = some (.dcl true) ∧ decodeTableWord 40 0x01830200F1 = some (.mrsX 0x01 0x03 0x02 0xF100) ∧
    decodeTableWord 24 0x010002 = some (.crc16 [0x00, 0x00]) ∧ decodeTableWord 8 0x2A = some .drain :=
  ⟨rfl, rfl, rfl, rfl, rfl⟩

/-- A table word is the next one performed: a command word, a frame, a line record and a trailer. -/
theorem test_withFetchWord_is_performed :
    step (base.withFetchWord 8 0x44) = .next { base with results := [.panelSize 400 240] } ∧
    step (base.withFetchWord 40 0x01830200F1) =
      .next { base with serialRx := [.data [0x01, 0x83, 0x02, 0x00, 0xF1]] } := ⟨rfl, rfl⟩

/-- The parts of a partial write are performed with the parts before them under way. -/
theorem test_withFetchWord_of_parts :
    (nextOf (step (base.withFetchWord 416 (0x01 <<< 408)))).map (·.openWrite) =
      some (some ⟨false, [(0x01, List.replicate 50 0x00)]⟩) ∧
    (nextOf (step (base.withFetchWord 8 0x00))).map (·.results) = some [.ok] := by decide

/-! ## One step, against the vectors -/

set_option maxRecDepth 3000

/-- V-C3, V-C4 and V-C11. -/
theorem test_crc16_vectors :
    crc16 [0x01] = 0x807E ∧ crc16 [0xFF] = 0x00FF ∧ crc16 [0x01, 0x03, 0x02, 0x04, 0xD2] = 0xD93A := by
  decide

/-- V-M2: the response cut into three reads. -/
theorem test_rdhr_reads_in_chunks :
    (after (.rdhr 0x0003) (supplied [[0x01, 0x03, 0x02], [0x04, 0xD2, 0x3A], [0xD9]])).results = [.okValue 0x04D2] := by
  decide

/-- V-M17: the exception bit is tested before the address. -/
theorem test_rdhr_exception_before_address :
    (after (.rdhr 0x0003) (supplied [[0x05, 0x83, 0x02, 0x00, 0x00, 0x60, 0x44]])).results =
      [.err (.modbusException 0x02)] := by decide

/-- V-M4: the echo is not compared. -/
theorem test_wrsr_echo_is_not_compared :
    (after (.wrsr 0x0005 0x03E8) (supplied [[0x01, 0x06, 0x00, 0x05, 0x00, 0x00, 0x99, 0xCB]])).results = [.ok] := by
  decide

/-- V-F10: the request that WRSR writes. -/
theorem test_wrsr_request :
    (after (.wrsr 0x0005 0x03E8) silent).serialOut = [0x01, 0x06, 0x00, 0x05, 0x03, 0xE8, 0x99, 0x75] := by decide

/-- V-F2, V-F3, V-F4: the registers of the first three getters. -/
theorem test_getter_requests :
    (after .getempty silent).serialOut = [0x01, 0x03, 0x00, 0x01, 0x00, 0x01, 0xD5, 0xCA] ∧
    (after .getlevel silent).serialOut = [0x01, 0x03, 0x00, 0x03, 0x00, 0x01, 0x74, 0x0A] ∧
    (after .getinst silent).serialOut = [0x01, 0x03, 0x00, 0x05, 0x00, 0x01, 0x94, 0x0B] := by
  decide

/-- V-F5, V-F6, V-F7: the registers of the other getters. -/
theorem test_getter_requests_of_configuration :
    (after .getaddr silent).serialOut = [0x01, 0x03, 0x03, 0xF4, 0x00, 0x01, 0xC5, 0xBC] ∧
    (after .getbaud silent).serialOut = [0x01, 0x03, 0x03, 0xF6, 0x00, 0x01, 0x64, 0x7C] ∧
    (after .getrange silent).serialOut = [0x01, 0x03, 0x07, 0xD4, 0x00, 0x01, 0xC5, 0x46] := by
  decide

/-- V-F10 (SETINST 1000) and V-F15 (SETRANGE 5). -/
theorem test_setter_requests :
    (after (.setinst 1000) silent).serialOut = [0x01, 0x06, 0x00, 0x05, 0x03, 0xE8, 0x99, 0x75] ∧
    (after (.setrange 5) silent).serialOut = [0x01, 0x06, 0x07, 0xD4, 0x00, 0x05, 0x08, 0x85] := by
  decide

/-- V-S5: the highest legal address. -/
theorem test_setaddr_takes_0xFD :
    (after (.setaddr 0xFD) (supplied [[0x01, 0x06, 0x03, 0xF4, 0x00, 0xFD, 0x09, 0xFD]])).devAddr = 0xFD := by decide

/-- V-S6: the sensor answers from its new address. -/
theorem test_setaddr_answer_from_new_address :
    (after (.setaddr 0x02) (supplied [[0x02, 0x06, 0x03, 0xF4, 0x00, 0x02, 0x49, 0x8E]])).results =
      [.err .addressMismatch] := by decide

/-- V-S13: 129000 is sent as 1290. -/
theorem test_setbaud_129000 :
    (after (.setbaud 129000) silent).serialOut = [0x01, 0x06, 0x03, 0xF6, 0x05, 0x0A, 0xEA, 0xEB] := by decide

/-- V-S9: 128000 is refused and nothing is written. -/
theorem test_setbaud_128000 :
    (after (.setbaud 128000) base).results = [.err .invalidBaudRate] ∧ (after (.setbaud 128000) base).serialOut = [] := by
  decide

/-- V-S15: completed lines without their newlines and without other unprintable bytes. -/
theorem test_drain_logs_lines :
    (after .drain (supplied [[0x48], [0x69], [0x0D], [0x0A], [0x01], [0x4F], [0x4B], [0x0A], []])).logOut =
      [[0x48, 0x69], [0x4F, 0x4B]] := by decide

/-- V-S17: empty lines are logged. -/
theorem test_drain_logs_empty_lines : (after .drain (supplied [[0x0A, 0x0A], []])).logOut = [[], []] := by decide

/-- V-P8: the last pixel, from 0x00. -/
theorem test_setpix_last_pixel : (after (.setpix 399 239 .light) base).fb = [(11999, 0x80)] := by decide

/-- V-P6: bit 5 of byte 351, from 0xFF, and line 7 marked. -/
theorem test_setpix_dark :
    (after (.setpix 13 7 .dark) { base with fb := [(351, 0xFF)] }).fb = [(351, 0xDF)] ∧
    (after (.setpix 13 7 .dark) { base with fb := [(351, 0xFF)] }).dirty = markLine 0#240 7 := by
  decide

/-- V-B9: the pixel that is dark in F7 and its neighbour. -/
theorem test_getpix_reads :
    (after (.getpix 3 2) drawn).results = [.pixel (some .dark)] ∧
    (after (.getpix 4 2) drawn).results = [.pixel (some .light)] := by
  decide

/-- V-B9: outside the grid. -/
theorem test_getpix_outside : (after (.getpix 400 2) drawn).results = [.pixel none] := by decide

/-- V-B11: the fill reaches the last byte. -/
theorem test_clearto_light : Memory.read (after (.clearto .light true) base).fb 11999 = 0xFF :=
  Memory.read_fill 0xFF (by decide)

/-- V-B10: without the mark the dirty bitmap stays. -/
theorem test_clearto_keeps_dirty : (after (.clearto .dark false) drawn).dirty = markLine 0#240 2 := rfl

/-- V-B12. -/
theorem test_markall : dirtyBit (after .markall base).dirty 239 = true := by decide

/-- V-B13. -/
theorem test_size : (after .size base).results = [.panelSize 400 240] := rfl

/-- V-D2, with the select line's levels. -/
theorem test_hwclear :
    (after .hwclear { base with p := true }).busOut = [.select true, .byte 0x06, .byte 0x00, .select false] := by decide

/-- V-D12: a toggle leaves the dirty bitmap. -/
theorem test_toggle : (after .toggle drawn).dirty = markLine 0#240 2 ∧ (after .toggle drawn).p = true := by decide

/-- V-D6, with zeros after F7. -/
theorem test_flush_one_line :
    (after .flush { drawn with p := true }).busOut =
      [.select true, .byte 0x03, .byte 0x03, .byte 0xF7] ++ List.replicate 49 (.byte 0x00) ++
        [.byte 0x00, .byte 0x00, .select false] := by decide

/-- The start of V-D9: the bus fails after ten bytes. -/
def failing : State := { drawn with p := true, busScript := [.fail 5 10] }

/-- V-D9: a failing bus leaves P and the dirty bit. -/
theorem test_flush_fails :
    (after .flush failing).results = [.err (.bus 5)] ∧ (after .flush failing).dirty = markLine 0#240 2 ∧
    (after .flush failing).p = true := by
  obtain ⟨released, h⟩ := writeTransaction_of_fail (s := failing) rfl failing.p
    ((dirtyLines failing.dirty).map (fbRecord failing.fb))
  have hf : exec .flush failing = .next (commitClean (writeTransaction failing.p
      ((dirtyLines failing.dirty).map (fbRecord failing.fb)) failing)) := by
    simp only [exec, execFlush]
    rw [if_neg (by decide)]
  unfold after
  rw [hf, h]
  exact ⟨rfl, rfl, rfl⟩

/-- R62: MRQ-R hands its eight bytes to the transport. -/
theorem test_mrqR :
    (after (.mrqR 0x01 0x0003 0x0A74) base).serialOut = [0x01, 0x03, 0x00, 0x03, 0x00, 0x01, 0x74, 0x0A] := by decide

/-- R64: so does MRQ-W; of a failed write only a prefix goes out. -/
theorem test_mrqW :
    (after (.mrqW 0x01 0x0005 0x03E8 0x7599) { base with serWriteScript := [.fail 3] }).serialOut =
      [0x01, 0x06, 0x00] := by decide

/-- R63, R64, R65: a frame from the sensor waits behind what is there. -/
theorem test_frames_from_the_sensor_wait :
    (after (.mrsR 0x01 0x04D2 0xD93A) (supplied [[0xAA]])).serialRx =
      [.data [0xAA], .data [0x01, 0x03, 0x02, 0x04, 0xD2, 0x3A, 0xD9]] ∧
    (after (.mrsW 0x01 0x0005 0x03E8 0x7599) base).serialRx =
      [.data [0x01, 0x06, 0x00, 0x05, 0x03, 0xE8, 0x99, 0x75]] ∧
    (after (.mrsX 0x01 0x03 0x02 0xF1C0) base).serialRx = [.data [0x01, 0x83, 0x02, 0xC0, 0xF1]] := by
  decide

/-- R68, R69: the two-byte transactions leave P alone. -/
theorem test_lone_transactions :
    (after (.dcl true) base).busOut = [.select true, .byte 0x06, .byte 0x00, .select false] ∧
    (after (.dtg true) base).busOut = [.select true, .byte 0x02, .byte 0x00, .select false] ∧
    (after (.dcl true) base).p = false := by
  decide

/-- R70, R71: nothing is on the bus before the trailer, which sends the stream with select around it. -/
theorem test_header_line_and_trailer :
    (after (.dwrLine 0x03 lineOfF7) (after (.dwrHeader true) base)).busOut = [] ∧
    (after .dwrTrailer (after (.dwrLine 0x03 lineOfF7) (after (.dwrHeader true) base))).busOut =
      [.select true, .byte 0x03, .byte 0x03, .byte 0xF7] ++ List.replicate 49 (.byte 0x00) ++
        [.byte 0x00, .byte 0x00, .select false] := by
  decide

/-- R70, R81, U12: line addresses 0 and 241, a line sent twice, and k = 0 are refused. -/
theorem test_parts_never_emitted :
    (∀ line ∈ [(0x00 : Byte), 0xF1], refusalOf (exec (.dwrLine line lineOfF7) (after (.dwrHeader true) base)) =
      some (.neverEmitted (.lineAddress line))) ∧
    refusalOf (exec (.dwrLine 0x03 lineOfF7) (after (.dwrLine 0x03 lineOfF7) (after (.dwrHeader true) base))) =
      some (.neverEmitted (.lineOrder 0x03)) ∧
    refusalOf (exec .dwrTrailer (after (.dwrHeader true) base)) = some (.neverEmitted .noLines) := by
  decide

/-- R209, R215: a request frame that is no traffic of an operation under way is refused. -/
theorem test_frame_outside_an_operation :
    refusalOf (step { base with crossings := [⟨none, .toSensor, encode (.mrqR 0x01 0x0003 0x0A74)⟩] }) =
      some .outsideOperation := by decide

/-- R70, D30: a line sent between header and trailer is on the panel. -/
theorem test_line_reaches_the_panel :
    panelLine (after .dwrTrailer (after (.dwrLine 0x03 lineOfF7) (after (.dwrHeader true) base))).panel 2 =
      some lineOfF7 := by decide

/-! ## Witnesses: for each statement with hypotheses, states and operands that meet them together -/

/-- `base` with these command words as the host's next calls. -/
def waiting (words : List (List Byte)) : State := { base with hostCalls := words }

/-- `base` with this wire form crossing next, as traffic of `op`. -/
def crossing (op : Option Instr) (form : Instr) : State :=
  { base with crossings := [⟨op, channelOf form, encode form⟩] }

/-- A transport that holds one chunk supplies its bytes. -/
theorem supplied_whole {bytes : List Byte} (h : bytes ≠ []) : supplies (supplied [bytes]) bytes [] :=
  ⟨[], bytes, [], [], by simp, h, rfl, by simp [supplied], rfl⟩

/-- The same, where the bytes are a frame. -/
theorem supplied_of_eq {bytes frame : List Byte} (h : bytes ≠ []) (he : bytes = frame) :
    supplies (supplied [bytes]) frame [] := he ▸ supplied_whole h

/-- A block whose panel shows its all-zero framebuffer, nothing dirty. -/
def shown : State := { base with panel := panelAll (some (List.replicate 50 0x00)) }

theorem shown_promise : PanelPromise shown := by
  intro y hy _
  rw [show shown.panel = panelAll (some (List.replicate 50 0x00)) from rfl, panelLine_panelAll _ hy]
  rfl

theorem witness_DecodeOfEncodeIsTheInstruction :
    wellFormed (.crc16 []) = true ∧ wellFormed (.crc16 (List.replicate 65535 0xFF)) = true ∧
    wellFormed (.dwrLine 0xF0 (List.replicate 50 0x00)) = true ∧ wellFormed .flush = true := by
  refine ⟨rfl, ?_, rfl, rfl⟩
  simp only [wellFormed, List.length_replicate]
  decide

theorem witness_EncodeOfDecodeIsTheWord :
    decode .host [0x01, 0x00, 0x00] = .ok (.crc16 []) ∧ decode .toSensor [0, 6, 0, 0, 0, 0, 0, 0] = .ok (.mrqW 0 0 0 0) ∧
    decode .fromSensor [0, 0xFF, 0, 0, 0] = .ok (.mrsX 0 0x7F 0 0) ∧ decode .display [0x00] = .ok .dwrTrailer :=
  ⟨rfl, rfl, rfl, rfl⟩

theorem witness_EncodedWordMatchesItsTableRow :
    wellFormed (.crc16 [0xAB]) = true ∧ wellFormed (.dwrLine 0x01 (List.replicate 50 0xFF)) = true := ⟨rfl, rfl⟩

theorem witness_MalformedCommandWord_selector :
    (waiting [[0x00]]).crossings = [] ∧ (waiting [[0x00]]).hostCalls = (0x00 :: []) :: [] ∧ (0x00 : Byte) ∉ hostSelectors ∧
    (0x53 : Byte) ∉ hostSelectors ∧ (0xFF : Byte) ∉ hostSelectors := by decide

theorem witness_MalformedCommandWord_length :
    (waiting [[0x52, 0x00]]).crossings = [] ∧ (waiting [[0x52, 0x00]]).hostCalls = (0x52 :: [0x00]) :: [] ∧ ((0x52 : Byte), 0) ∈ fixedLengthCommands ∧
    [(0x00 : Byte)].length ≠ 0 ∧ ((0x40 : Byte), 5) ∈ fixedLengthCommands ∧ ([] : List Byte).length ≠ 5 := by decide

theorem witness_MalformedCommandWord_crc16 :
    (waiting [[0x01, 0x00]]).crossings = [] ∧ (waiting [[0x01, 0x00]]).hostCalls = (0x01 :: [0x00]) :: [] ∧ [(0x00 : Byte)].length < 2 ∧
    ([] : List Byte).length ≠ 256 * (0x00 : Byte).toNat + (0x01 : Byte).toNat ∧
    [(0xAA : Byte)].length ≠ 256 * (0x00 : Byte).toNat + (0x00 : Byte).toNat := by decide

theorem witness_MalformedCommandWord_operands :
    (waiting [[0x40, 0, 0, 0, 0, 0x02]]).crossings = [] ∧ (waiting [[0x40, 0, 0, 0, 0, 0x02]]).hostCalls = (0x40 :: [0, 0, 0, 0, 0x02]) :: [] ∧
    (0x02 : Byte) ≠ 0x00 ∧ (0x02 : Byte) ≠ 0x01 ∧ (0x04 : Byte) >>> 2 ≠ 0 ∧ (0xFF : Byte) >>> 2 ≠ 0 := by decide

theorem witness_StepPerformsTheDecodedInstruction :
    (waiting [[0x44], [0x43]]).crossings = [] ∧ (waiting [[0x44], [0x43]]).hostCalls = [0x44] :: [[0x43]] ∧
    decode .host [0x44] = .ok .size ∧ base.crossings = [] ∧ base.hostCalls = [] ∧
    (crossing (some .toggle) (.dtg true)).crossings = ⟨some .toggle, .display, [0x02, 0x00]⟩ :: [] ∧
    decode .display [0x02, 0x00] = .ok (.dtg true) ∧ emits .toggle (.dtg true) = true ∧
    (crossing none (.mrsX 0x01 0x03 0x02 0xF1C0)).crossings =
      ⟨none, .fromSensor, [0x01, 0x83, 0x02, 0xC0, 0xF1]⟩ :: [] ∧
    decode .fromSensor [0x01, 0x83, 0x02, 0xC0, 0xF1] = .ok (.mrsX 0x01 0x03 0x02 0xF1C0) := by
  refine ⟨rfl, rfl, rfl, rfl, rfl, rfl, rfl, rfl, rfl, rfl⟩

theorem witness_EveryStepKeepsTheInvariant :
    Inv (waiting [[0x43]]) ∧ step (waiting [[0x43]]) = .next (after .markall base) :=
  ⟨⟨rfl, rfl, fun _ h => by cases h⟩, rfl⟩

/-- A partial write under way, and the record that it takes in a step. -/
theorem witness_EveryStepKeepsTheInvariant_records :
    Inv { crossing (some .flush) (.dwrLine 0x03 lineOfF7) with openWrite := some ⟨true, [(0x01, lineOfF7)]⟩ } ∧
    emits .flush (.dwrLine 0x03 lineOfF7) = true ∧
    (nextOf (step { crossing (some .flush) (.dwrLine 0x03 lineOfF7) with
      openWrite := some ⟨true, [(0x01, lineOfF7)]⟩ })).map (·.openWrite) =
      some (some ⟨true, [(0x01, lineOfF7), (0x03, lineOfF7)]⟩) := by
  refine ⟨⟨rfl, rfl, fun w h => ?_⟩, rfl, by decide⟩
  cases h
  exact ⟨by decide, List.pairwise_singleton _ _⟩

/-- Calls whose steps touch the serial transport, the bus, FB and DIRTY; and a lone form that is refused. -/
theorem witness_HostActsThroughOperationsOnly :
    (∀ word ∈ [[(0x20 : Byte)], [0x51], [0x40, 0x01, 0x8F, 0x00, 0xEF, 0x01]],
      (waiting [word]).crossings = [] ∧
      ((nextOf (step { waiting [word] with serialRx := [.data []] })).any fun t =>
        decide ((t.serialOut, t.busOut, t.fb, t.dirty) ≠ ([], [], [], 0#240))) = true) ∧
    (crossing (some .hwclear) (.dtg true)).crossings = ⟨some .hwclear, .display, [0x02, 0x00]⟩ :: [] ∧
    decode .display [0x02, 0x00] = .ok (.dtg true) ∧ emits .hwclear (.dtg true) = false :=
  ⟨by decide, rfl, rfl, rfl⟩

theorem witness_SensorInstructionLeavesTheDisplayDriver :
    isSensorInstr (.rdhr 3) = true ∧ exec (.rdhr 3) drawn = .next (after (.rdhr 3) drawn) := ⟨rfl, rfl⟩

theorem witness_DisplayInstructionLeavesTheSensorDriver :
    isSensorInstr .hwclear = false ∧ exec .hwclear drawn = .next (after .hwclear drawn) := ⟨rfl, rfl⟩

/-- The transport of V-S5. -/
def readdressed : State := supplied [[0x01, 0x06, 0x03, 0xF4, 0x00, 0xFD, 0x09, 0xFD]]

theorem witness_OnlySetaddrChangesTheDeviceAddress :
    exec (.setaddr 0xFD) readdressed = .next (after (.setaddr 0xFD) readdressed) ∧
    (after (.setaddr 0xFD) readdressed).devAddr ≠ readdressed.devAddr :=
  ⟨rfl, by decide⟩

theorem witness_ErrorCommitsNothing :
    channelOf (.setaddr 0x00) = .host ∧ exec (.setaddr 0x00) drawn = .next (after (.setaddr 0x00) drawn) ∧
    (after (.setaddr 0x00) drawn).results = drawn.results ++ [.err .invalidAddress] := ⟨rfl, rfl, rfl⟩

theorem witness_ErrorCommitsNothing_bus :
    channelOf .flush = .host ∧ (after .flush failing).results = failing.results ++ [.err (.bus 5)] :=
  ⟨rfl, test_flush_fails.1⟩

theorem witness_CorruptedResponseIsCrcMismatch :
    0 < (withCrc [0x01, 0x03, 0x02, 0x04, 0xD2]).length ∧ (withCrc [0x01, 0x03, 0x02, 0x04, 0xD2])[0]? ≠ some 0x02 ∧
    6 < (withCrc [0x01, 0x03, 0x02, 0x04, 0xD2]).length ∧
    (withCrc [0x01, 0x03, 0x02, 0x04, 0xD2])[6]? ≠ some 0xD8 := by decide

/-- Three chunks; and Program 5 step 4 in two reads: the second chunk is two bytes longer than what is missing. -/
theorem witness_ReadExactTakesAnyChunks :
    (∀ c ∈ [[(0x01 : Byte), 0x03, 0x02], [0x04, 0xD2, 0x3A], [0xD9]], c ≠ []) ∧
    (∀ c ∈ [[(0xC0 : Byte), 0xF1]], c ≠ []) ∧ [[(0xC0 : Byte), 0xF1]].flatten.length < 7 ∧
    7 < [[(0xC0 : Byte), 0xF1]].flatten.length + [(0x01 : Byte), 0x03, 0x02, 0x04, 0xD2, 0x3A, 0xD9].length := by
  decide

/-- Six of seven bytes and then silence; no byte of eight and then a failure. -/
theorem witness_ReadExactStopsShort :
    (∀ c ∈ [[(0x01 : Byte), 0x83, 0x02, 0xC0], [0xF1, 0x00]], c ≠ []) ∧
    [[(0x01 : Byte), 0x83, 0x02, 0xC0], [0xF1, 0x00]].flatten.length < 7 ∧ ([] : List (List Byte)).flatten.length < 8 ∧
    requestOf .getlevel base = some (readRequest 0x01 0x0003, 7) ∧
    requestOf (.setaddr 0xFD) base = some (writeRequest 0x01 0x03F4 0x00FD, 8) ∧ nextSerAnswer base = .ok ∧
    (supplied [[0x01, 0x83, 0x02, 0xC0], [0xF1, 0x00], []]).serialRx =
      [[0x01, 0x83, 0x02, 0xC0], [0xF1, 0x00]].map RxEvent.data ++ .data [] :: [] ∧
    { base with serialRx := [.fail] }.serialRx = ([] : List (List Byte)).map RxEvent.data ++ .fail :: [] := by
  decide

/-- V-M9 as the answer to GETLEVEL and V-S6 as the answer to SETADDR: another address. Program 5 step 4 in two reads: the
late bytes come first, and the last two bytes of the response stay. -/
theorem witness_ResponsesAreValidated :
    nextSerAnswer (supplied [[0x02, 0x03, 0x02], [0x04, 0xD2, 0x7E, 0xD9]]) = .ok ∧
    supplies (supplied [[0x02, 0x03, 0x02], [0x04, 0xD2, 0x7E, 0xD9]]) [0x02, 0x03, 0x02, 0x04, 0xD2, 0x7E, 0xD9] [] ∧
    readRegister .getlevel = some 0x0003 ∧ [(0x02 : Byte), 0x03, 0x02, 0x04, 0xD2, 0x7E, 0xD9].length = 7 ∧
    validate 0x01 [0x02, 0x03, 0x02, 0x04, 0xD2, 0x7E, 0xD9] 7 0x03 = some .addressMismatch ∧
    supplies (supplied [[0x02, 0x06, 0x03, 0xF4, 0x00, 0x02, 0x49, 0x8E]])
      [0x02, 0x06, 0x03, 0xF4, 0x00, 0x02, 0x49, 0x8E] [] ∧
    writtenRegister (.setaddr 0x02) = some (0x03F4, 0x0002) ∧
    validate 0x01 [0x02, 0x06, 0x03, 0xF4, 0x00, 0x02, 0x49, 0x8E] 8 0x06 = some .addressMismatch ∧
    supplies (supplied [[0xC0, 0xF1], [0x01, 0x03, 0x02, 0x04, 0xD2, 0x3A, 0xD9]])
      [0xC0, 0xF1, 0x01, 0x03, 0x02, 0x04, 0xD2] [.data [0x3A, 0xD9]] ∧
    validate 0x01 [0xC0, 0xF1, 0x01, 0x03, 0x02, 0x04, 0xD2] 7 0x03 = some .crcMismatch :=
  ⟨rfl, ⟨[[0x02, 0x03, 0x02]], [0x04, 0xD2, 0x7E, 0xD9], [], [], by decide, by decide, rfl, rfl, rfl⟩, rfl, rfl,
    by decide, supplied_whole (by decide), by decide, by decide,
    ⟨[[0xC0, 0xF1]], [0x01, 0x03, 0x02, 0x04, 0xD2], [0x3A, 0xD9], [], by decide, by decide, rfl, rfl, rfl⟩,
    by decide⟩

/-- V-M5: the CRC is wrong. -/
theorem witness_Validation_crc :
    [(0x01 : Byte), 0x03, 0x02, 0x04, 0xD2, 0x3A, 0xD8].length = 7 ∧
    crc16 ([0x01, 0x03, 0x02, 0x04, 0xD2, 0x3A, 0xD8].take (7 - 2)) ≠ le16 0x3A 0xD8 := by decide

/-- V-M7: the exception bit is set. -/
theorem witness_Validation_exception :
    crc16 ([0x01, 0x83, 0x02, 0x00, 0x00, 0x91, 0x84].take (7 - 2)) = le16 0x91 0x84 ∧
    (0x83 : Byte).getLsbD 7 = true := by decide

/-- V-M9, V-M10: another address; another function. -/
theorem witness_Validation_address_and_function :
    crc16 ([0x02, 0x03, 0x02, 0x04, 0xD2, 0x7E, 0xD9].take (7 - 2)) = le16 0x7E 0xD9 ∧ (0x02 : Byte) ≠ 0x01 ∧
    crc16 ([0x01, 0x04, 0x02, 0x04, 0xD2, 0x3B, 0xAD].take (7 - 2)) = le16 0x3B 0xAD ∧ (0x04 : Byte) ≠ 0x03 ∧
    (0x03 : Byte).getLsbD 7 = false ∧ (0x04 : Byte).getLsbD 7 = false := by decide

/-- V-M11: another byte count, for a read; V-M3: a write, whose byte 2 is no count; and a frame of three bytes. -/
theorem witness_Validation_length_and_good :
    crc16 ([0x01, 0x03, 0x04, 0x04, 0xD2, 0xDA, 0xD8].take (7 - 2)) = le16 0xDA 0xD8 ∧ (0x04 : Byte) ≠ 0x02 ∧
    crc16 ([0x01, 0x06, 0x00, 0x05, 0x03, 0xE8, 0x99, 0x75].take (8 - 2)) = le16 0x99 0x75 ∧
    ¬ ((0x06 : Byte) = 0x03 ∧ (0x00 : Byte) ≠ 0x02) ∧ crc16 ([0x01, 0x7E, 0x80].take (3 - 2)) = le16 0x7E 0x80 := by
  decide

/-- V-M2: a good read response in three reads. -/
theorem witness_RdhrReturnsTheRegister :
    nextSerAnswer (supplied [[0x01, 0x03, 0x02], [0x04, 0xD2, 0x3A], [0xD9]]) = .ok ∧
    supplies (supplied [[0x01, 0x03, 0x02], [0x04, 0xD2, 0x3A], [0xD9]]) (readResponse base.devAddr 0x04D2) [] :=
  ⟨rfl, [[0x01, 0x03, 0x02], [0x04, 0xD2, 0x3A]], [0xD9], [], [], by decide, by decide, by decide, rfl, rfl⟩

/-- V-S14. -/
theorem witness_GettersReturnTheirRegisters :
    (Instr.getbaud, (0x03F6 : Word)) ∈ [(Instr.getempty, (0x0001 : Word)), (.getlevel, 0x0003), (.getinst, 0x0005),
      (.getaddr, 0x03F4), (.getbaud, 0x03F6), (.getrange, 0x07D4)] ∧
    nextSerAnswer (supplied [[0x01, 0x03, 0x02, 0x04, 0x80, 0xBB, 0x24]]) = .ok ∧
    supplies (supplied [[0x01, 0x03, 0x02, 0x04, 0x80, 0xBB, 0x24]]) (readResponse base.devAddr 1152) [] :=
  ⟨by decide, rfl, supplied_of_eq (by decide) (by decide)⟩

/-- V-M3, V-M4: a good write response, the echo of the request or not. -/
theorem witness_WrsrReturnsOk :
    nextSerAnswer (supplied [[0x01, 0x06, 0x00, 0x05, 0x00, 0x00, 0x99, 0xCB]]) = .ok ∧
    supplies (supplied [[0x01, 0x06, 0x00, 0x05, 0x00, 0x00, 0x99, 0xCB]]) (writeRequest base.devAddr 0x0005 0x0000) [] :=
  ⟨rfl, supplied_of_eq (by decide) (by decide)⟩

/-- V-M3 as the answer to SETINST 1000. -/
theorem witness_SettersWriteTheirRegisters :
    nextSerAnswer (supplied [[0x01, 0x06, 0x00, 0x05, 0x03, 0xE8, 0x99, 0x75]]) = .ok ∧
    supplies (supplied [[0x01, 0x06, 0x00, 0x05, 0x03, 0xE8, 0x99, 0x75]]) (writeRequest base.devAddr 0x0005 1000) [] :=
  ⟨rfl, supplied_of_eq (by decide) (by decide)⟩

/-- V-S4 and V-S5: the lowest and the highest legal address. -/
theorem witness_SetaddrMovesTheDeviceAddress :
    0x01 ≤ (0x01 : Byte).toNat ∧ (0xFD : Byte).toNat ≤ 0xFD ∧ nextSerAnswer readdressed = .ok ∧
    supplies readdressed (writeRequest readdressed.devAddr 0x03F4 0x00FD) [] :=
  ⟨by decide, by decide, rfl, supplied_of_eq (by decide) (by decide)⟩

theorem witness_SetaddrRejectsIllegalAddresses :
    (0x00 : Byte) ∈ [(0x00 : Byte), 0xFE, 0xFF] ∧ (0xFF : Byte) ∈ [(0x00 : Byte), 0xFE, 0xFF] := by decide

/-- V-S11. -/
theorem witness_SetbaudWritesTheCode :
    ((115200 : BitVec 32), (1152 : Word)) ∈ [((4800 : BitVec 32), (48 : Word)), (9600, 96), (14400, 144), (19200, 192),
      (38400, 384), (56000, 560), (57600, 576), (115200, 1152), (129000, 1290)] ∧
    nextSerAnswer (supplied [[0x01, 0x06, 0x03, 0xF6, 0x04, 0x80, 0x6A, 0xDC]]) = .ok ∧
    supplies (supplied [[0x01, 0x06, 0x03, 0xF6, 0x04, 0x80, 0x6A, 0xDC]]) (writeRequest base.devAddr 0x03F6 1152) [] :=
  ⟨by decide, rfl, supplied_of_eq (by decide) (by decide)⟩

/-- V-S8 to V-S10, and the largest operand. -/
theorem witness_SetbaudRejectsOtherRates :
    ∀ baud ∈ [(0 : BitVec 32), 100000, 128000, 0xFFFFFFFF],
      baud.toNat ∉ [4800, 9600, 14400, 19200, 38400, 56000, 57600, 115200, 129000] := by
  simp

/-- A read whose request does not go out at all, and an accessor whose request fails after the last byte. -/
theorem witness_FailedRequestWriteIsIo :
    requestOf (.rdhr 0x0003) base = some (readRequest 0x01 0x0003, 7) ∧
    nextSerAnswer { base with serWriteScript := [.fail 0] } = .fail 0 ∧
    requestOf (.setbaud 4800) base = some (writeRequest 0x01 0x03F6 48, 8) ∧
    nextSerAnswer { base with serWriteScript := [.fail 8] } = .fail 8 := by decide

/-- V-M8 in two reads, V-M12, and a write answered by a short exception frame and four more bytes. -/
theorem witness_ShortExceptionFrameIsNotReported :
    nextSerAnswer (supplied [[0x01, 0x83], [0x02, 0xC0, 0xF1], []]) = .ok ∧
    (∀ c ∈ [[(0x01 : Byte), 0x83], [0x02, 0xC0, 0xF1]], c ≠ []) ∧
    (supplied [[0x01, 0x83], [0x02, 0xC0, 0xF1], []]).serialRx =
      [[0x01, 0x83], [0x02, 0xC0, 0xF1]].map RxEvent.data ++ .data [] :: [] ∧
    [[(0x01 : Byte), 0x83], [0x02, 0xC0, 0xF1]].flatten = exceptionResponse 0x01 0x83 0x02 ∧
    supplies (supplied [[0x01, 0x83, 0x02, 0xC0, 0xF1, 0x01, 0x03]])
      (exceptionResponse 0x01 0x83 0x02 ++ [0x01, 0x03]) [] ∧ le16 0x01 0x03 ≠ 0x0000 ∧
    supplies (supplied [[0x01, 0x86, 0x03], [0x02, 0x61, 0x01, 0x03, 0x00, 0xAA]])
      (exceptionResponse 0x01 0x86 0x03 ++ [0x01, 0x03, 0x00]) [.data [0xAA]] ∧ le16 0x03 0x00 ≠ crcStep 0x0000 0x01 :=
  ⟨rfl, by decide, rfl, by decide, supplied_of_eq (by decide) (by decide), by decide,
    ⟨[[0x01, 0x86, 0x03]], [0x02, 0x61, 0x01, 0x03, 0x00], [0xAA], [], by decide, by decide, by decide, rfl, rfl⟩,
    by decide⟩

/-- V-M7 in two reads for the read and V-M16 for the write. -/
theorem witness_FullLengthExceptionIsReported :
    nextSerAnswer (supplied [[0x01, 0x83], [0x02, 0x00, 0x00, 0x91, 0x84]]) = .ok ∧ (0x83 : Byte).getLsbD 7 = true ∧
    supplies (supplied [[0x01, 0x83], [0x02, 0x00, 0x00, 0x91, 0x84]]) (withCrc [0x01, 0x83, 0x02, 0x00, 0x00]) [] ∧
    [(0x01 : Byte), 0x83, 0x02, 0x00, 0x00].length = 5 ∧
    supplies (supplied [[0x01, 0x86, 0x03, 0x00, 0x00, 0x00, 0x88, 0x50]])
      (withCrc [0x01, 0x86, 0x03, 0x00, 0x00, 0x00]) [] ∧
    [(0x01 : Byte), 0x86, 0x03, 0x00, 0x00, 0x00][1]? = some 0x86 ∧ (0x86 : Byte).getLsbD 7 = true ∧
    [(0x01 : Byte), 0x86, 0x03, 0x00, 0x00, 0x00].length = 6 :=
  ⟨rfl, by decide, ⟨[[0x01, 0x83]], [0x02, 0x00, 0x00, 0x91, 0x84], [], [], by decide, by decide, by decide, rfl, rfl⟩,
    rfl, supplied_of_eq (by decide) (by decide), rfl, by decide, rfl⟩

theorem witness_RequestFieldsSurviveEncoding : nextSerAnswer base = .ok := rfl

/-- Silence, a failure, and nothing that ends the drain. -/
theorem witness_DrainLogsTheText :
    { base with serialRx := [.data [0x41, 0x42], .data [], .fail] }.serialRx =
      [[0x41, 0x42]].map RxEvent.data ++ (.data [] :: [.fail]) ∧
    { base with serialRx := [.data [0x41, 0x42], .fail] }.serialRx = [[0x41, 0x42]].map RxEvent.data ++ (.fail :: []) ∧
    (supplied []).serialRx = ([] : List (List Byte)).map RxEvent.data ++ [] ∧ (∀ c ∈ [[(0x41 : Byte), 0x42]], c ≠ []) := by
  decide

/-- The first and the last pixel of the grid. -/
theorem witness_grid_corners :
    0 ≤ (0 : Word).toInt ∧ (399 : Word).toInt < 400 ∧ 0 ≤ (399 : Word).toInt ∧ (239 : Word).toInt < 240 ∧
    0 ≤ (239 : Word).toInt := by decide

theorem witness_SetpixPaintsOnePixel :
    (0 : Word).toInt < 400 ∧ (0 : Word).toInt < 240 ∧ (399 : Word).toInt < 400 ∧ (239 : Word).toInt < 240 := by decide

/-- V-B2: the pixel is dark already; V-B5 to V-B8, each side of the grid at its first coordinate outside. -/
theorem witness_SetpixWithNothingToPaintChangesNothing :
    (0 ≤ (3 : Word).toInt ∧ (3 : Word).toInt < 400 ∧ 0 ≤ (2 : Word).toInt ∧ (2 : Word).toInt < 240 ∧
    (Memory.read drawn.fb (50 * (2 : Word).toInt.toNat + (3 : Word).toInt.toNat / 8)).getLsbD
      ((3 : Word).toInt.toNat % 8) = decide (Colour.dark = .light)) ∧
    (-1 : Word).toInt < 0 ∧ 400 ≤ (400 : Word).toInt ∧ 240 ≤ (240 : Word).toInt ∧ (0x8000 : Word).toInt < 0 ∧
    400 ≤ (0x7FFF : Word).toInt := by decide

theorem witness_GetpixReadsThePixel :
    (399 : Word).toInt < 400 ∧ 0 ≤ (399 : Word).toInt ∧ 0 ≤ (0 : Word).toInt ∧ (239 : Word).toInt < 240 ∧
    400 ≤ (400 : Word).toInt ∧ (-1 : Word).toInt < 0 ∧ 240 ≤ (240 : Word).toInt := by decide

theorem witness_GetpixAfterSetpix :
    exec (.setpix 399 239 .light) base = .next (after (.setpix 399 239 .light) base) ∧
    ((398 : Word), (239 : Word)) ≠ (399, 239) ∧
    exec (.getpix 398 239) base = .next { base with results := base.results ++ [.pixel (some .dark)] } :=
  ⟨rfl, by decide, rfl⟩

/-- A line marked, and a line cleared. -/
theorem witness_DirtyBitWriters :
    exec (.setpix 0 239 .light) base = .next (after (.setpix 0 239 .light) base) ∧
    dirtyBit base.dirty 239 = false ∧ dirtyBit (after (.setpix 0 239 .light) base).dirty 239 = true ∧
    exec .hwclear drawn = .next (after .hwclear drawn) ∧ dirtyBit drawn.dirty 2 = true ∧
    dirtyBit (after .hwclear drawn).dirty 2 = false :=
  ⟨rfl, by decide, by decide, rfl, by decide, by decide⟩

theorem witness_HwclearClearsAndFlips :
    nextBusAnswer base = .ok ∧ nextBusAnswer { base with busScript := [.ok, .fail 5 0] } = .ok := ⟨rfl, rfl⟩

theorem witness_ToggleFlips : nextBusAnswer drawn = .ok := rfl

theorem witness_FlushSendsTheDirtyLines : nextBusAnswer drawn = .ok ∧ drawn.dirty ≠ 0#240 := by decide

theorem witness_FlushOfCleanBufferIsToggle : ∀ y, y < 240 → dirtyBit base.dirty y = false := by
  intro y _
  exact BitVec.getLsbD_zero

theorem witness_WriteStreamLayout :
    nextBusAnswer drawn = .ok ∧ [2] = (List.range 240).filter (dirtyBit drawn.dirty) ∧ ([2] : List Nat) ≠ [] ∧ ([2] : List Nat)[0]? = some 2 := by
  decide

/-- V-D9 with its dirty line 2 and a line that is not dirty, and a bus that fails before any byte and one that fails after
all of them. -/
theorem witness_FailedDisplayOperation :
    isDisplayOperation .flush = true ∧ nextBusAnswer failing = .fail 5 10 ∧
    dirtyBit failing.dirty 2 = true ∧ dirtyBit failing.dirty 239 = false ∧
    isDisplayOperation .hwclear = true ∧ nextBusAnswer { base with busScript := [.fail 7 0] } = .fail 7 0 ∧
    isDisplayOperation .toggle = true ∧ nextBusAnswer { base with busScript := [.fail 7 2] } = .fail 7 2 := by decide

theorem witness_PolarityFlipsExactlyOnSuccess :
    exec .toggle base = .next (after .toggle base) ∧ exec .size base = .next (after .size base) := ⟨rfl, rfl⟩

theorem witness_DirtyPromiseIsKept :
    PanelPromise shown ∧ channelOf (.setpix 3 2 .light) = .host ∧
    (Instr.setpix 3 2 .light) ≠ .hwclear ∧ (∀ c, (Instr.setpix 3 2 .light) ≠ .clearto c false) ∧
    exec (.setpix 3 2 .light) shown = .next (after (.setpix 3 2 .light) shown) :=
  ⟨shown_promise, rfl, by decide, by simp, rfl⟩

/-- Every line dirty, or the promise with line 2 dirty. -/
theorem witness_FlushEstablishesThePanel :
    (∀ y, y < 240 → dirtyBit (after .markall base).dirty y = true) ∧ nextBusAnswer (after .markall base) = .ok ∧
    exec .flush (after .markall base) = .next (after .flush (after .markall base)) ∧
    PanelPromise shown ∧ nextBusAnswer shown = .ok ∧ exec .flush shown = .next (after .flush shown) :=
  ⟨fun _ hy => dirtyBit_allDirty hy, rfl, rfl, shown_promise, rfl, rfl⟩

theorem witness_ClearPairMakesPanelAndBufferUniform :
    nextBusAnswer drawn = .ok ∧ exec .hwclear drawn = .next (after .hwclear drawn) ∧
    exec (.clearto .light false) (after .hwclear drawn) =
      .next (after (.clearto .light false) (after .hwclear drawn)) ∧
    exec (.clearto .light false) drawn = .next (after (.clearto .light false) drawn) ∧
    exec .hwclear (after (.clearto .light false) drawn) =
      .next (after .hwclear (after (.clearto .light false) drawn)) :=
  ⟨rfl, rfl, rfl, rfl, rfl⟩

theorem witness_FramesCrossTheSerialLink : nextSerAnswer base = .ok := rfl

theorem witness_ArrivedResponseIsRead :
    nextSerAnswer base = .ok ∧ base.serialRx = [] ∧
    exec (.mrsR base.devAddr 0x04D2 (crc16 [base.devAddr, 0x03, 0x02, hi 0x04D2, lo 0x04D2])) base =
      .next (after (.mrsR base.devAddr 0x04D2 (crc16 [base.devAddr, 0x03, 0x02, hi 0x04D2, lo 0x04D2])) base) :=
  ⟨rfl, rfl, rfl⟩

theorem witness_LoneTransactionsAreSent : nextBusAnswer drawn = .ok := rfl

/-- The record that takes the last wire line address, and the trailer after it. -/
theorem witness_PartsMakeAPartialWrite :
    (after (.dwrHeader true) base).openWrite = some ⟨true, []⟩ ∧ 1 ≤ (0xF0 : Byte).toNat ∧ (0xF0 : Byte).toNat ≤ 240 ∧
    (∀ r ∈ ([] : List LineRecord), r.1.toNat < (0xF0 : Byte).toNat) ∧
    (after (.dwrLine 0xF0 lineOfF7) (after (.dwrHeader true) base)).openWrite = some ⟨true, [(0xF0, lineOfF7)]⟩ ∧
    [((0xF0 : Byte), lineOfF7)] ≠ [] ∧ emittable [(0xF0, lineOfF7)] ∧
    nextBusAnswer (after (.dwrLine 0xF0 lineOfF7) (after (.dwrHeader true) base)) = .ok :=
  ⟨rfl, by decide, by decide, by simp, by decide, by simp, ⟨by decide, List.pairwise_singleton _ _⟩, by decide⟩

/-- The addresses beside the legal ones, a line sent again, and a stream with no header or no record. -/
theorem witness_NeverEmittedPartsAreRefused :
    base.openWrite = none ∧ (after (.dwrHeader true) base).openWrite = some ⟨true, []⟩ ∧
    ((0x00 : Byte).toNat = 0 ∨ 241 ≤ (0x00 : Byte).toNat) ∧ ((0xF1 : Byte).toNat = 0 ∨ 241 ≤ (0xF1 : Byte).toNat) ∧
    (after (.dwrLine 0x01 lineOfF7) (after (.dwrHeader true) base)).openWrite = some ⟨true, [(0x01, lineOfF7)]⟩ ∧
    1 ≤ (0x01 : Byte).toNat ∧ (0x01 : Byte).toNat ≤ 240 ∧
    (∃ r ∈ [((0x01 : Byte), lineOfF7)], (0x01 : Byte).toNat ≤ r.1.toNat) := by
  decide

theorem witness_PartsTogetherAreTheFlush :
    drawn.dirty ≠ 0#240 ∧ exec .flush drawn = .next (after .flush drawn) := ⟨by decide, rfl⟩

end Sys2Proof.Tests
end

/-! Every host operation answers a next state with exactly one result, every wire form but two with at most one
(00_scope.md R13, 70_reset_and_hazards.md R217). No transport I/O records a result; the end of an operation records
one. -/

namespace Sys2Proof.Machine

/-! ## Transport I/O records no result -/

section TransportIO

variable (s : State)

@[simp] theorem serWrite_results (tx : List Byte) : (serWrite tx s).2.results = s.results := by
  obtain ⟨sent, hw, -⟩ := serWrite_spec tx s
  simp [hw]

@[simp] theorem modbusRead_results (reg : Word) : (modbusRead reg s).2.results = s.results := by
  obtain ⟨sent, q, draws, h⟩ := modbusRead_spec reg s
  simp [h]

@[simp] theorem modbusWrite_results (reg val : Word) : (modbusWrite reg val s).2.results = s.results := by
  obtain ⟨sent, q, draws, h⟩ := modbusWrite_spec reg val s
  simp [h]

@[simp] theorem drainTransport_results : (drainTransport s).results = s.results := by
  obtain ⟨q, draws, lines, h⟩ := drainTransport_spec s
  rw [h]

@[simp] theorem transact_results (bytes : List Byte) : (transact bytes s).2.results = s.results := by
  obtain ⟨r, scs, draws, events, h, -⟩ := transact_spec bytes s
  simp [h]

@[simp] theorem clearTransaction_results (p : Bool) : (clearTransaction p s).2.results = s.results := by
  have ht := transact_results s (clearStream p)
  unfold clearTransaction
  split <;> simp_all

@[simp] theorem toggleTransaction_results (p : Bool) : (toggleTransaction p s).2.results = s.results :=
  transact_results s (toggleStream p)

@[simp] theorem writeTransaction_results (p : Bool) (recs : List LineRecord) :
    (writeTransaction p recs s).2.results = s.results := by
  have ht := transact_results s (writeStream p recs)
  unfold writeTransaction
  split <;> simp_all

end TransportIO

/-! ## What an instruction returns -/

/-- From `s` the outcome is a next state with exactly one result more (R13). -/
def ReturnsOne (s : State) (o : Host.Outcome State Fault Refusal) : Prop :=
  ∃ t r, o = .next t ∧ t.results = s.results ++ [r]

/-- From `s` the outcome is a next state with at most one result more. -/
def ReturnsAtMostOne (s : State) (o : Host.Outcome State Fault Refusal) : Prop :=
  ∃ t rs, o = .next t ∧ t.results = s.results ++ rs ∧ rs.length ≤ 1

theorem ReturnsOne.atMostOne {s : State} {o : Host.Outcome State Fault Refusal} (h : ReturnsOne s o) :
    ReturnsAtMostOne s o := by
  obtain ⟨t, r, ho, hr⟩ := h
  exact ⟨t, [r], ho, hr, le_rfl⟩

/-- A next state that recorded nothing. -/
theorem returnsAtMostOne_of_results_eq {s t : State} (h : t.results = s.results) : ReturnsAtMostOne s (.next t) :=
  ⟨t, [], rfl, by simpa using h, Nat.zero_le 1⟩

/-! ## The ends of operations, each after work that recorded nothing -/

section Ends

variable {s : State}

theorem returnsOne_finish {t : State} (h : t.results = s.results) (r : OpResult) :
    ReturnsOne s (.next (t.finish r)) :=
  ⟨t.finish r, r, rfl, by rw [State.finish_results, h]⟩

/-- Taking an error is returning it (R193). -/
theorem returnsOne_raise {t : State} (h : t.results = s.results) (k : ErrorKind) :
    ReturnsOne s (.next (t.raise k)) :=
  returnsOne_finish h (.err k)

theorem returnsOne_finishRead {r : Except ErrorKind Word × State} (h : r.2.results = s.results) :
    ReturnsOne s (.next (finishRead r)) := by
  obtain ⟨v, hv⟩ | ⟨k, -, hk⟩ := finishRead_spec r
  · exact hv ▸ returnsOne_finish h (.okValue v)
  · exact hk ▸ returnsOne_raise h k

theorem returnsOne_finishWrite {r : Option ErrorKind × State} (h : r.2.results = s.results) :
    ReturnsOne s (.next (finishWrite r)) := by
  obtain ⟨-, hok⟩ | ⟨k, -, hk⟩ := finishWrite_spec r
  · exact hok ▸ returnsOne_finish h .ok
  · exact hk ▸ returnsOne_raise h k

theorem returnsOne_finishSetaddr {r : Option ErrorKind × State} (h : r.2.results = s.results) (a : Byte) :
    ReturnsOne s (.next (finishSetaddr a r)) :=
  match r, h with
  | (none, t), h => returnsOne_finish (t := t.setDevAddr a) h .ok
  | (some k, _), h => returnsOne_raise h k

theorem returnsOne_finishSerWrite {r : SerWriteAnswer × State} (h : r.2.results = s.results) :
    ReturnsOne s (.next (finishSerWrite r)) :=
  match r, h with
  | (.ok, _), h => returnsOne_finish h .ok
  | (.fail _, _), h => returnsOne_raise h .io

theorem returnsOne_finishBus {r : Option BusError × State} (h : r.2.results = s.results) :
    ReturnsOne s (.next (finishBus r)) :=
  match r, h with
  | (none, _), h => returnsOne_finish h .ok
  | (some e, _), h => returnsOne_raise h (.bus e)

theorem returnsOne_commitClean {r : Option BusError × State} (h : r.2.results = s.results) :
    ReturnsOne s (.next (commitClean r)) :=
  match r, h with
  | (none, t), h => returnsOne_finish (t := (t.setDirty noneDirty).togglePolarity) h .ok
  | (some e, _), h => returnsOne_raise h (.bus e)

theorem returnsOne_commitToggle {r : Option BusError × State} (h : r.2.results = s.results) :
    ReturnsOne s (.next (commitToggle r)) :=
  match r, h with
  | (none, t), h => returnsOne_finish (t := t.togglePolarity) h .ok
  | (some e, _), h => returnsOne_raise h (.bus e)

end Ends

/-! ## The operations that branch before their end -/

section Operations

variable (s : State)

/-- SETADDR with any operand: an illegal address is an error like any other (R127, R128). -/
theorem execSetaddr_returnsOne (a : Byte) : ReturnsOne s (execSetaddr a s) := by
  unfold execSetaddr
  split
  · exact returnsOne_finishSetaddr (modbusWrite_results s _ _) a
  · exact returnsOne_raise rfl .invalidAddress

/-- SETBAUD with any operand: another rate is an error like any other (R130). -/
theorem execSetbaud_returnsOne (baud : BitVec 32) : ReturnsOne s (execSetbaud baud s) := by
  unfold execSetbaud
  split
  · exact returnsOne_finishWrite (modbusWrite_results s _ _)
  · exact returnsOne_raise rfl .invalidBaudRate

/-- SETPIX never faults: a pixel of the grid is in framebuffer space (R50). -/
theorem execSetpix_returnsOne (x y : Word) (c : Colour) : ReturnsOne s (execSetpix x y c s) := by
  unfold execSetpix
  split
  next hg =>
    rw [fbLoad_pixel s.fb hg]
    exact returnsOne_finish (State.paint_results s _ _ _ _) .nothing
  next => exact returnsOne_finish rfl .nothing

/-- GETPIX never faults: a pixel of the grid is in framebuffer space (R50). -/
theorem execGetpix_returnsOne (x y : Word) : ReturnsOne s (execGetpix x y s) := by
  unfold execGetpix
  split
  next hg =>
    rw [fbLoad_pixel s.fb hg]
    exact returnsOne_finish rfl _
  next => exact returnsOne_finish rfl (.pixel none)

/-- FLUSH ends as TOGGLE does where no line is dirty, else as a partial write (R163). -/
theorem execFlush_returnsOne : ReturnsOne s (execFlush s) := by
  unfold execFlush
  split
  · exact returnsOne_commitToggle (toggleTransaction_results s s.p)
  · exact returnsOne_commitClean (writeTransaction_results s s.p _)

end Operations

/-! ## Every instruction -/

/-- A host operation is not stuck in any state and returns exactly one result (R13, R217). -/
theorem exec_host_returnsOne (i : Instr) (s : State) (h : channelOf i = .host) : ReturnsOne s (exec i s) := by
  cases i with
  | crc16 data => exact returnsOne_finish rfl (.checksum (crc16 data))
  | rdhr | getempty | getlevel | getinst | getaddr | getbaud | getrange =>
    exact returnsOne_finishRead (modbusRead_results s _)
  | wrsr | setinst | setrange => exact returnsOne_finishWrite (modbusWrite_results s _ _)
  | setaddr a => exact execSetaddr_returnsOne s a
  | setbaud baud => exact execSetbaud_returnsOne s baud
  | drain => exact returnsOne_finish (drainTransport_results s) .nothing
  | setpix x y c => exact execSetpix_returnsOne s x y c
  | getpix x y => exact execGetpix_returnsOne s x y
  | clearto c mark =>
    exact returnsOne_finish (t := (s.setFb _).setDirty (if mark then allDirty else s.dirty)) rfl .nothing
  | markall => exact returnsOne_finish (t := s.setDirty allDirty) rfl .nothing
  | size => exact returnsOne_finish rfl (.panelSize Config.width Config.height)
  | hwclear => exact returnsOne_commitClean (clearTransaction_results s s.p)
  | toggle => exact returnsOne_commitToggle (toggleTransaction_results s s.p)
  | flush => exact execFlush_returnsOne s
  | _ => cases h

/-- A wire form but DWR.line and DWR.trailer is not stuck in any state: a frame or a transaction that the block sends
returns one result, bytes that only wait return none (log 1). -/
theorem exec_wireForm_returnsAtMostOne (i : Instr) (s : State) (h : channelOf i ≠ .host)
    (hl : ∀ line pixels, i ≠ .dwrLine line pixels) (ht : i ≠ .dwrTrailer) : ReturnsAtMostOne s (exec i s) := by
  cases i with
  | mrqR | mrqW => exact (returnsOne_finishSerWrite (serWrite_results s _)).atMostOne
  | mrsR | mrsW | mrsX => exact returnsAtMostOne_of_results_eq (State.receive_results s _)
  | dcl p => exact (returnsOne_finishBus (clearTransaction_results s p)).atMostOne
  | dtg p => exact (returnsOne_finishBus (toggleTransaction_results s p)).atMostOne
  | dwrHeader p => exact returnsAtMostOne_of_results_eq (State.setOpenWrite_results s _)
  | dwrLine line pixels => exact absurd rfl (hl line pixels)
  | dwrTrailer => exact absurd rfl ht
  | _ => exact absurd rfl h

/-- Settles O10: the case split over the instructions, where each ends in a result after I/O that records none. -/
theorem everyOperationReturns : Obligations.EveryOperationReturns :=
  ⟨exec_host_returnsOne, exec_wireForm_returnsAtMostOne⟩

end Sys2Proof.Machine

/-! What a step performs, the fresh state, and what each driver leaves alone (10_state.md R2, R20, R21, R28, R36). For
the two drivers: the state seen through a view that blanks what one driver's work may change; every instruction of that
driver leaves the view as it was. -/

namespace Sys2Proof.Machine

/-! ## The next step -/

/-- A word that decodes on the sensor's channel is a form that the sensor sends. -/
theorem decodeFromSensor_channel {bytes : List Byte} {i : Instr} (h : decodeFromSensor bytes = .ok i) :
    channelOf i = .fromSensor := by
  unfold decodeFromSensor at h
  split at h
  case h_1 | h_5 => nomatch h
  all_goals
    split at h
    · cases h
      rfl
    · nomatch h

/-- A form that the sensor sends may cross whatever operation is under way (R33). -/
theorem mayCross_of_fromSensor {i : Instr} (h : channelOf i = .fromSensor) (operation : Option Instr) :
    mayCross operation i = true := by
  unfold mayCross
  rw [h]

/-- A form may cross in an operation that emits it (R209, R215): no operation emits another operation. -/
theorem mayCross_of_emits {op i : Instr} (h : emits op i = true) : mayCross (some op) i = true := by
  cases i with
  | mrqR | mrqW | dcl | dtg | dwrHeader | dwrLine | dwrTrailer => exact h
  | _ => cases h

theorem step_of_call {s : State} {word : List Byte} {rest : List (List Byte)} {i : Instr} (hc : s.crossings = [])
    (hw : s.hostCalls = word :: rest) (hi : callInstr word = .ok i) : step s = exec i { s with hostCalls := rest } := by
  unfold step fetch
  simp only [hc, hw, hi]

theorem step_of_crossing {s : State} {c : Crossing} {rest : List Crossing} {i : Instr} (hc : s.crossings = c :: rest)
    (hi : crossingInstr c = .ok i) : step s = exec i { s with crossings := rest } := by
  unfold step fetch
  simp only [hc, hi]

/-- With nothing called the block waits (R28, R202). -/
theorem step_of_idle {s : State} (hc : s.crossings = []) (hw : s.hostCalls = []) : step s = .next s := by
  unfold step fetch
  simp only [hc, hw]

/-- Settles O6: a call is taken where it decodes, a crossing where its form may cross. -/
theorem stepPerformsTheDecodedInstruction : Obligations.StepPerformsTheDecodedInstruction := by
  refine ⟨fun s word rest i hc hw hi => ?_, fun s c rest i hc hi hcross => ?_, fun s => step_of_idle⟩
  · exact step_of_call hc hw ((callInstr_eq_ok_iff word i).mpr hi)
  · have hmay : mayCross c.operation i = true := by
      obtain hch | ⟨op, hop, hemits⟩ := hcross
      · rw [hch] at hi
        exact mayCross_of_fromSensor (decodeFromSensor_channel hi) c.operation
      · rw [hop]
        exact mayCross_of_emits hemits
    exact step_of_crossing hc ((crossingInstr_eq_ok_iff c i).mpr ⟨hi, hmay⟩)

/-! ## The fresh state -/

/-- Settles O8: the memory of FB_INIT is canonical, no select level was driven, no partial write is under way. -/
theorem resetMeetsTheInvariant : Obligations.ResetMeetsTheInvariant where
  fbWf := State.reset_fb_wf
  selectTraced := rfl
  recordsEmittable := fun _ hw => nomatch hw

theorem panelLine_reset (y : Nat) : panelLine State.reset.panel y = none := by
  by_cases hy : y < 240
  · exact panelLine_panelAll none hy
  · exact panelLine_of_ge _ (Nat.not_lt.mp hy)

/-- Settles O9: the fields as creation sets them; FB by what a memory given by a function reads. -/
theorem resetIsTheFreshState : Obligations.ResetIsTheFreshState := by
  refine ⟨rfl, rfl, dirtyBit_noneDirty, rfl, fun a ha => ?_, panelLine_reset, rfl, rfl⟩
  rw [State.reset_fb, read_memoryOf]
  exact if_pos ha

/-! ## The two views and the outcomes that leave them -/

/-- The state with what serial I/O, the log and a returned result change blanked: DEVADDR, the display driver's state,
the bus and what waits to be performed are left. -/
def State.withoutSerialIO (s : State) : State :=
  { s with serialRx := [], serWriteScript := [], serDraws := 0, serialOut := [], logOut := [], results := [] }

/-- The state with the display driver's state, the bus and the results blanked: DEVADDR, the serial transport, the log
and what waits to be performed are left. -/
def State.withoutDisplay (s : State) : State :=
  { s with
    p := false, scs := false, fb := [], dirty := noneDirty, panel := panelAll none, openWrite := none,
    busScript := [], busDraws := 0, busOut := [], results := [] }

theorem withoutSerialIO_eq_iff {s t : State} : t.withoutSerialIO = s.withoutSerialIO ↔
    t.devAddr = s.devAddr ∧ t.p = s.p ∧ t.scs = s.scs ∧ t.fb = s.fb ∧ t.dirty = s.dirty ∧ t.panel = s.panel ∧
    t.openWrite = s.openWrite ∧ t.hostCalls = s.hostCalls ∧ t.crossings = s.crossings ∧
    t.busScript = s.busScript ∧ t.busDraws = s.busDraws ∧ t.busOut = s.busOut := by
  simp [State.withoutSerialIO]

theorem withoutDisplay_eq_iff {s t : State} : t.withoutDisplay = s.withoutDisplay ↔
    t.devAddr = s.devAddr ∧ t.hostCalls = s.hostCalls ∧ t.crossings = s.crossings ∧ t.serialRx = s.serialRx ∧
    t.serWriteScript = s.serWriteScript ∧ t.serDraws = s.serDraws ∧ t.serialOut = s.serialOut ∧
    t.logOut = s.logOut := by
  simp [State.withoutDisplay]

/-- Where the outcome is a next state, it looks as `s` does in this view. -/
def Leaves (view : State → State) (s : State) (o : Host.Outcome State Fault Refusal) : Prop :=
  ∀ t, o = .next t → view t = view s

theorem leaves_next {view : State → State} {s t : State} (h : view t = view s) : Leaves view s (.next t) := by
  intro u hu
  rwa [← Host.Outcome.next.inj hu]

theorem leaves_refused (view : State → State) (s : State) (why : Refusal) : Leaves view s (.refused why) :=
  fun _ h => nomatch h

/-! ## The sensor driver -/

section SensorDriver

variable (s : State)

@[simp] theorem finish_withoutSerialIO (r : OpResult) : (s.finish r).withoutSerialIO = s.withoutSerialIO := rfl

@[simp] theorem raise_withoutSerialIO (k : ErrorKind) : (s.raise k).withoutSerialIO = s.withoutSerialIO := rfl

@[simp] theorem setDevAddr_withoutSerialIO (a : Byte) :
    (s.setDevAddr a).withoutSerialIO = s.withoutSerialIO.setDevAddr a := rfl

@[simp] theorem receive_withoutSerialIO (bytes : List Byte) :
    (s.receive bytes).withoutSerialIO = s.withoutSerialIO := rfl

@[simp] theorem serWrite_withoutSerialIO (tx : List Byte) :
    (serWrite tx s).2.withoutSerialIO = s.withoutSerialIO := by
  obtain ⟨sent, h, -⟩ := serWrite_spec tx s
  rw [h]
  rfl

@[simp] theorem modbusRead_withoutSerialIO (reg : Word) :
    (modbusRead reg s).2.withoutSerialIO = s.withoutSerialIO := by
  obtain ⟨sent, q, draws, h⟩ := modbusRead_spec reg s
  rw [h]
  rfl

@[simp] theorem modbusWrite_withoutSerialIO (reg val : Word) :
    (modbusWrite reg val s).2.withoutSerialIO = s.withoutSerialIO := by
  obtain ⟨sent, q, draws, h⟩ := modbusWrite_spec reg val s
  rw [h]
  rfl

@[simp] theorem drainTransport_withoutSerialIO : (drainTransport s).withoutSerialIO = s.withoutSerialIO := by
  obtain ⟨q, draws, lines, h⟩ := drainTransport_spec s
  rw [h]
  rfl

@[simp] theorem finishRead_withoutSerialIO (r : Except ErrorKind Word × State) :
    (finishRead r).withoutSerialIO = r.2.withoutSerialIO := by
  obtain ⟨v, h⟩ | ⟨k, -, h⟩ := finishRead_spec r <;> rw [h] <;> rfl

@[simp] theorem finishWrite_withoutSerialIO (r : Option ErrorKind × State) :
    (finishWrite r).withoutSerialIO = r.2.withoutSerialIO := by
  obtain ⟨-, h⟩ | ⟨k, -, h⟩ := finishWrite_spec r <;> rw [h] <;> rfl

@[simp] theorem finishSerWrite_withoutSerialIO (r : SerWriteAnswer × State) :
    (finishSerWrite r).withoutSerialIO = r.2.withoutSerialIO := by
  obtain ⟨_ | n, t⟩ := r <;> rfl

theorem execSetbaud_leaves (baud : BitVec 32) : Leaves State.withoutSerialIO s (execSetbaud baud s) := by
  unfold execSetbaud
  split
  · exact leaves_next (by simp)
  · exact leaves_next (by simp)

/-- A sensor instruction other than SETADDR does serial I/O, logs and returns; nothing else changes. -/
theorem exec_sensor_leaves {i : Instr} (h : isSensorInstr i = true) (ha : ∀ a, i ≠ .setaddr a) :
    Leaves State.withoutSerialIO s (exec i s) := by
  cases i with
  | mrqR | mrqW => exact leaves_next (by simp)
  | mrsR | mrsW | mrsX => exact leaves_next (by simp)
  | crc16 => exact leaves_next (by simp)
  | rdhr | getempty | getlevel | getinst | getaddr | getbaud | getrange => exact leaves_next (by simp)
  | wrsr | setinst | setrange => exact leaves_next (by simp)
  | setaddr a => exact absurd rfl (ha a)
  | setbaud baud => exact execSetbaud_leaves s baud
  | drain => exact leaves_next (by simp)
  | _ => cases h

variable {s}

/-- SETADDR ends in `Ok` with DEVADDR taken, or in an error, recorded after the transport's I/O. -/
theorem finishSetaddr_spec (a : Byte) (r : Option ErrorKind × State) :
    finishSetaddr a r = (r.2.setDevAddr a).finish .ok ∨ ∃ k, finishSetaddr a r = r.2.raise k := by
  obtain ⟨_ | k, t⟩ := r
  · exact .inl rfl
  · exact .inr ⟨k, rfl⟩

/-- SETADDR either changes no more than the others, or its operand is legal, the write returned `Ok`, and DEVADDR takes
the operand (R127, R128). -/
theorem execSetaddr_spec {a : Byte} {t : State} (h : execSetaddr a s = .next t) :
    t.withoutSerialIO = s.withoutSerialIO ∨
      legalDeviceAddress a = true ∧ t.results = s.results ++ [.ok] ∧
        t.withoutSerialIO = (s.setDevAddr a).withoutSerialIO := by
  unfold execSetaddr at h
  split at h
  next hlegal =>
    rw [← Host.Outcome.next.inj h]
    obtain hok | ⟨k, herr⟩ := finishSetaddr_spec a (modbusWrite Config.regDeviceAddress (zext16 a) s)
    · rw [hok]
      exact .inr ⟨hlegal, by simp, by simp⟩
    · rw [herr]
      exact .inl (by simp)
  next =>
    rw [← Host.Outcome.next.inj h]
    exact .inl rfl

/-- Everything a sensor instruction can do outside serial I/O, the log and its result: nothing, or a SETADDR that
returned `Ok` takes its legal operand. -/
theorem exec_sensor_spec {i : Instr} {t : State} (hi : isSensorInstr i = true) (h : exec i s = .next t) :
    t.withoutSerialIO = s.withoutSerialIO ∨
      ∃ a, i = .setaddr a ∧ legalDeviceAddress a = true ∧ t.results = s.results ++ [.ok] ∧
        t.withoutSerialIO = (s.setDevAddr a).withoutSerialIO := by
  by_cases ha : ∃ a, i = .setaddr a
  · obtain ⟨a, rfl⟩ := ha
    exact (execSetaddr_spec h).imp_right fun hok => ⟨a, rfl, hok⟩
  · exact .inl (exec_sensor_leaves s hi (not_exists.mp ha) t h)

end SensorDriver

/-! ## The display driver -/

section DisplayDriver

variable (s : State)

@[simp] theorem finish_withoutDisplay (r : OpResult) : (s.finish r).withoutDisplay = s.withoutDisplay := rfl

@[simp] theorem setFb_withoutDisplay (m : Memory) : (s.setFb m).withoutDisplay = s.withoutDisplay := rfl

@[simp] theorem setDirty_withoutDisplay (d : BitVec 240) : (s.setDirty d).withoutDisplay = s.withoutDisplay := rfl

@[simp] theorem setOpenWrite_withoutDisplay (w : Option PartialWrite) :
    (s.setOpenWrite w).withoutDisplay = s.withoutDisplay := rfl

@[simp] theorem paint_withoutDisplay (a y : Nat) (old new : Byte) :
    (s.paint a y old new).withoutDisplay = s.withoutDisplay := by
  unfold State.paint
  split <;> rfl

@[simp] theorem transact_withoutDisplay (bytes : List Byte) :
    (transact bytes s).2.withoutDisplay = s.withoutDisplay := by
  obtain ⟨r, scs, draws, events, h, -⟩ := transact_spec bytes s
  rw [h]
  rfl

@[simp] theorem clearTransaction_withoutDisplay (p : Bool) :
    (clearTransaction p s).2.withoutDisplay = s.withoutDisplay := by
  rw [← transact_withoutDisplay s (clearStream p)]
  unfold clearTransaction
  obtain ⟨_ | e, t⟩ := transact (clearStream p) s <;> rfl

@[simp] theorem toggleTransaction_withoutDisplay (p : Bool) :
    (toggleTransaction p s).2.withoutDisplay = s.withoutDisplay := transact_withoutDisplay s (toggleStream p)

@[simp] theorem writeTransaction_withoutDisplay (p : Bool) (recs : List LineRecord) :
    (writeTransaction p recs s).2.withoutDisplay = s.withoutDisplay := by
  rw [← transact_withoutDisplay s (writeStream p recs)]
  unfold writeTransaction
  obtain ⟨_ | e, t⟩ := transact (writeStream p recs) s <;> rfl

@[simp] theorem finishBus_withoutDisplay (r : Option BusError × State) :
    (finishBus r).withoutDisplay = r.2.withoutDisplay := by
  obtain ⟨_ | e, t⟩ := r <;> rfl

@[simp] theorem commitClean_withoutDisplay (r : Option BusError × State) :
    (commitClean r).withoutDisplay = r.2.withoutDisplay := by
  obtain ⟨_ | e, t⟩ := r <;> rfl

@[simp] theorem commitToggle_withoutDisplay (r : Option BusError × State) :
    (commitToggle r).withoutDisplay = r.2.withoutDisplay := by
  obtain ⟨_ | e, t⟩ := r <;> rfl

theorem execSetpix_leaves (x y : Word) (c : Colour) : Leaves State.withoutDisplay s (execSetpix x y c s) := by
  unfold execSetpix
  split
  next hgrid =>
    rw [fbLoad_pixel s.fb hgrid]
    exact leaves_next (by simp)
  next => exact leaves_next (by simp)

theorem execGetpix_leaves (x y : Word) : Leaves State.withoutDisplay s (execGetpix x y s) := by
  unfold execGetpix
  split
  next hgrid =>
    rw [fbLoad_pixel s.fb hgrid]
    exact leaves_next (by simp)
  next => exact leaves_next (by simp)

theorem execFlush_leaves : Leaves State.withoutDisplay s (execFlush s) := by
  unfold execFlush
  split
  · exact leaves_next (by simp)
  · exact leaves_next (by simp)

theorem execDwrLine_leaves (line : Byte) (pixels : List Byte) :
    Leaves State.withoutDisplay s (execDwrLine line pixels s) := by
  unfold execDwrLine
  split
  · exact leaves_refused _ s _
  · exact leaves_next (by simp)

theorem execDwrTrailer_leaves : Leaves State.withoutDisplay s (execDwrTrailer s) := by
  unfold execDwrTrailer
  split
  · exact leaves_refused _ s _
  · split
    · exact leaves_refused _ s _
    · exact leaves_next (by simp)

/-- A display instruction changes the display driver's state, the bus and the results only. -/
theorem exec_display_leaves {i : Instr} (h : isSensorInstr i = false) : Leaves State.withoutDisplay s (exec i s) := by
  cases i with
  | dcl | dtg => exact leaves_next (by simp)
  | dwrHeader p => exact leaves_next (by simp)
  | dwrLine line pixels => exact execDwrLine_leaves s line pixels
  | dwrTrailer => exact execDwrTrailer_leaves s
  | setpix x y c => exact execSetpix_leaves s x y c
  | getpix x y => exact execGetpix_leaves s x y
  | clearto | markall | size => exact leaves_next (by simp)
  | hwclear | toggle => exact leaves_next (by simp)
  | flush => exact execFlush_leaves s
  | _ => cases h

end DisplayDriver

/-! ## The two drivers do not interfere -/

/-- Settles O12: of what the view shows, a sensor instruction changes at most DEVADDR. -/
theorem sensorInstructionLeavesTheDisplayDriver : Obligations.SensorInstructionLeavesTheDisplayDriver := by
  intro i s t hi h
  obtain ⟨a, hview⟩ : ∃ a, t.withoutSerialIO = (s.setDevAddr a).withoutSerialIO := by
    obtain hview | ⟨a, -, -, -, hview⟩ := exec_sensor_spec hi h
    · exact ⟨s.devAddr, hview⟩
    · exact ⟨a, hview⟩
  obtain ⟨-, hp, hscs, hfb, hdirty, hpanel, hopen, hcalls, hcross, hscript, hdraws, hout⟩ :=
    withoutSerialIO_eq_iff.mp hview
  exact ⟨hp, hscs, hfb, hdirty, hpanel, hopen, hscript, hout, hdraws, hcalls, hcross⟩

/-- Settles O13: a display instruction leaves the view without the display driver. -/
theorem displayInstructionLeavesTheSensorDriver : Obligations.DisplayInstructionLeavesTheSensorDriver := by
  intro i s t hi h
  obtain ⟨hdev, hcalls, hcross, hrx, hscript, hdraws, hout, hlog⟩ :=
    withoutDisplay_eq_iff.mp (exec_display_leaves s hi t h)
  exact ⟨hdev, hrx, hscript, hdraws, hout, hlog, hcalls, hcross⟩

/-! ## DEVADDR -/

/-- The legal device addresses as numbers (R127). -/
theorem legalDeviceAddress_iff (a : Byte) : legalDeviceAddress a = true ↔ 0x01 ≤ a.toNat ∧ a.toNat ≤ 0xFD :=
  decide_eq_true_iff

/-- Settles O14: no display instruction touches DEVADDR, and of the sensor instructions only a SETADDR that returned
`Ok`. -/
theorem onlySetaddrChangesTheDeviceAddress : Obligations.OnlySetaddrChangesTheDeviceAddress := by
  intro i s t h hne
  cases hi : isSensorInstr i with
  | false => exact absurd (withoutDisplay_eq_iff.mp (exec_display_leaves s hi t h)).1 hne
  | true =>
    obtain hview | ⟨a, rfl, hlegal, hres, hview⟩ := exec_sensor_spec hi h
    · exact absurd (withoutSerialIO_eq_iff.mp hview).1 hne
    · have hdev : t.devAddr = a := (withoutSerialIO_eq_iff.mp hview).1
      obtain ⟨hmin, hmax⟩ := (legalDeviceAddress_iff a).mp hlegal
      rw [hdev]
      exact ⟨rfl, hmin, hmax, hres⟩

end Sys2Proof.Machine

/-! Every step keeps the invariant of the state (20_memory.md R41, 00_scope.md R15, 30_encoding.md R81). The invariant
reads four fields; each update that writes one of them keeps it, so each display instruction does, and the sensor
instructions write none of the four. -/

namespace Sys2Proof.Machine

/-! ## Updates of the state -/

section Updates

variable {s t : State}

/-- The invariant reads FB, SCS, the bus trace and the partial write under way, and nothing else. -/
theorem inv_congr (h : Inv s) (hfb : t.fb = s.fb) (hscs : t.scs = s.scs) (hout : t.busOut = s.busOut)
    (hopen : t.openWrite = s.openWrite) : Inv t where
  fbWf := hfb ▸ h.fbWf
  selectTraced := by rw [hscs, hout, h.selectTraced]
  recordsEmittable := hopen ▸ h.recordsEmittable

theorem inv_finish (h : Inv s) (r : OpResult) : Inv (s.finish r) := inv_congr h rfl rfl rfl rfl

theorem inv_raise (h : Inv s) (k : ErrorKind) : Inv (s.raise k) := inv_finish h (.err k)

theorem inv_togglePolarity (h : Inv s) : Inv s.togglePolarity := inv_congr h rfl rfl rfl rfl

theorem inv_setDirty (h : Inv s) (d : BitVec 240) : Inv (s.setDirty d) := inv_congr h rfl rfl rfl rfl

theorem inv_setPanel (h : Inv s) (pan : Panel) : Inv (s.setPanel pan) := inv_congr h rfl rfl rfl rfl

theorem inv_setFb (h : Inv s) {m : Memory} (hm : Memory.wf m = true) : Inv (s.setFb m) where
  fbWf := hm
  selectTraced := h.selectTraced
  recordsEmittable := h.recordsEmittable

/-- The read-modify-write of SETPIX, at an address of framebuffer space (R41). -/
theorem inv_paint (h : Inv s) {a : Nat} (ha : a < Config.fbBytes) (y : Nat) (old new : Byte) :
    Inv (s.paint a y old new) := by
  unfold State.paint
  split
  · exact h
  · exact inv_setDirty (inv_setFb h (Memory.wf_write h.fbWf ha new)) _

/-- A stream with no record yet breaks no rule of R81. -/
theorem emittable_nil : emittable [] := ⟨List.forall_mem_nil _, .nil⟩

theorem inv_setOpenWrite (h : Inv s) {w : Option PartialWrite} (hw : ∀ v, w = some v → emittable v.records) :
    Inv (s.setOpenWrite w) where
  fbWf := h.fbWf
  selectTraced := h.selectTraced
  recordsEmittable := hw

end Updates

/-! ## The display bus -/

/-- A hardware clear is its TRANSACT and a change of the ghost image, whether it succeeds or not (R161, D30). -/
theorem clearTransaction_state (p : Bool) (s : State) :
    ∃ pan, (clearTransaction p s).2 = (transact (clearStream p) s).2.setPanel pan := by
  unfold clearTransaction
  obtain ⟨_ | e, t⟩ := transact (clearStream p) s
  · exact ⟨panelAll (some clearedLine), rfl⟩
  · exact ⟨panelAll none, rfl⟩

/-- A partial write is its TRANSACT and a change of the ghost image, whether it succeeds or not (R163, D30). -/
theorem writeTransaction_state (p : Bool) (recs : List LineRecord) (s : State) :
    ∃ pan, (writeTransaction p recs s).2 = (transact (writeStream p recs) s).2.setPanel pan := by
  unfold writeTransaction
  obtain ⟨_ | e, t⟩ := transact (writeStream p recs) s
  · exact ⟨_, rfl⟩
  · exact ⟨_, rfl⟩

section Bus

variable {s : State} (h : Inv s)
include h

theorem inv_csSet (b : Bool) : Inv (s.csSet b) where
  fbWf := by simpa using h.fbWf
  selectTraced := csSet_traced h.selectTraced b
  recordsEmittable := by simpa using h.recordsEmittable

theorem inv_busWrite (bytes : List Byte) : Inv (busWrite bytes s).2 := by
  have htraced := busWrite_traced h.selectTraced bytes
  obtain ⟨sent, hw⟩ := busWrite_spec bytes s
  rw [hw] at htraced ⊢
  exact ⟨h.fbWf, htraced, h.recordsEmittable⟩

/-- Whatever level the line has after a failure, the trace shows it (R23, D17). -/
theorem inv_selectUnspecified : Inv s.selectUnspecified :=
  inv_congr (inv_csSet h (Config.selectAfterFailure s.busDraws)) rfl rfl rfl rfl

theorem inv_transact (bytes : List Byte) : Inv (transact bytes s).2 := by
  have hw := inv_busWrite (inv_csSet h true) bytes
  unfold transact
  split
  next t ht =>
    rw [ht] at hw
    exact inv_csSet hw false
  next e n t ht =>
    rw [ht] at hw
    exact inv_selectUnspecified hw

theorem inv_clearTransaction (p : Bool) : Inv (clearTransaction p s).2 := by
  obtain ⟨pan, hpan⟩ := clearTransaction_state p s
  exact hpan ▸ inv_setPanel (inv_transact h _) pan

theorem inv_toggleTransaction (p : Bool) : Inv (toggleTransaction p s).2 := inv_transact h (toggleStream p)

theorem inv_writeTransaction (p : Bool) (recs : List LineRecord) : Inv (writeTransaction p recs s).2 := by
  obtain ⟨pan, hpan⟩ := writeTransaction_state p recs s
  exact hpan ▸ inv_setPanel (inv_transact h _) pan

end Bus

/-! ## The ends of transactions -/

section Ends

variable {r : Option BusError × State} (h : Inv r.2)
include h

theorem inv_finishBus : Inv (finishBus r) :=
  match r, h with
  | (none, _), h => inv_finish h .ok
  | (some e, _), h => inv_raise h (.bus e)

theorem inv_commitClean : Inv (commitClean r) :=
  match r, h with
  | (none, _), h => inv_finish (inv_togglePolarity (inv_setDirty h noneDirty)) .ok
  | (some e, _), h => inv_raise h (.bus e)

theorem inv_commitToggle : Inv (commitToggle r) :=
  match r, h with
  | (none, _), h => inv_finish (inv_togglePolarity h) .ok
  | (some e, _), h => inv_raise h (.bus e)

end Ends

/-! ## Instructions -/

/-- Where the outcome is a next state, it meets the invariant. -/
def MeetsInv (o : Host.Outcome State Fault Refusal) : Prop := ∀ t, o = .next t → Inv t

theorem meetsInv_next {t : State} (h : Inv t) : MeetsInv (.next t) :=
  fun _ hu => Host.Outcome.next.inj hu ▸ h

theorem meetsInv_refused (why : Refusal) : MeetsInv (.refused why) := fun _ h => nomatch h

section Instructions

variable {s : State} (h : Inv s)
include h

/-- SETPIX writes FB at a pixel of the grid only, which is in framebuffer space (R50). -/
theorem execSetpix_meetsInv (x y : Word) (c : Colour) : MeetsInv (execSetpix x y c s) := by
  unfold execSetpix
  split
  next hgrid =>
    rw [fbLoad_pixel s.fb hgrid]
    exact meetsInv_next (inv_finish (inv_paint h (byteAddr_lt hgrid) _ _ _) .nothing)
  next => exact meetsInv_next (inv_finish h .nothing)

theorem execGetpix_meetsInv (x y : Word) : MeetsInv (execGetpix x y s) := by
  unfold execGetpix
  split
  next hgrid =>
    rw [fbLoad_pixel s.fb hgrid]
    exact meetsInv_next (inv_finish h _)
  next => exact meetsInv_next (inv_finish h (.pixel none))

theorem execFlush_meetsInv : MeetsInv (execFlush s) := by
  unfold execFlush
  split
  · exact meetsInv_next (inv_commitToggle (inv_toggleTransaction h s.p))
  · exact meetsInv_next (inv_commitClean (inv_writeTransaction h s.p _))

/-- A header begins a stream with no record. -/
theorem execDwrHeader_meetsInv (p : Bool) : MeetsInv (execDwrHeader p s) := by
  refine meetsInv_next (inv_setOpenWrite h fun v hv => ?_)
  rw [← Option.some.inj hv]
  exact emittable_nil

/-- A record is taken only where its line address is legal and above those before it (R81). -/
theorem execDwrLine_meetsInv (line : Byte) (pixels : List Byte) : MeetsInv (execDwrLine line pixels s) := by
  unfold execDwrLine
  split
  · exact meetsInv_refused _
  next htaken =>
    obtain ⟨w, hw, hlegal, habove⟩ := (recordRefused_eq_none_iff s.openWrite line).mp htaken
    refine meetsInv_next (inv_setOpenWrite h fun v hv => ?_)
    rw [hw] at hv
    rw [← Option.some.inj hv]
    exact emittable_append (h.recordsEmittable w hw) hlegal habove

/-- A trailer ends the stream: none is under way after it. -/
theorem execDwrTrailer_meetsInv : MeetsInv (execDwrTrailer s) := by
  have hclosed : Inv (s.setOpenWrite none) := inv_setOpenWrite h fun _ hv => nomatch hv
  unfold execDwrTrailer
  split
  · exact meetsInv_refused _
  · split
    · exact meetsInv_refused _
    · exact meetsInv_next (inv_finishBus (inv_writeTransaction hclosed _ _))

theorem exec_display_meetsInv {i : Instr} (hi : isSensorInstr i = false) : MeetsInv (exec i s) := by
  cases i with
  | dcl p => exact meetsInv_next (inv_finishBus (inv_clearTransaction h p))
  | dtg p => exact meetsInv_next (inv_finishBus (inv_toggleTransaction h p))
  | dwrHeader p => exact execDwrHeader_meetsInv h p
  | dwrLine line pixels => exact execDwrLine_meetsInv h line pixels
  | dwrTrailer => exact execDwrTrailer_meetsInv h
  | setpix x y c => exact execSetpix_meetsInv h x y c
  | getpix x y => exact execGetpix_meetsInv h x y
  | clearto c mark =>
    exact meetsInv_next (inv_finish (inv_setDirty (inv_setFb h (Memory.wf_fill _)) _) .nothing)
  | markall => exact meetsInv_next (inv_finish (inv_setDirty h allDirty) .nothing)
  | size => exact meetsInv_next (inv_finish h _)
  | hwclear => exact meetsInv_next (inv_commitClean (inv_clearTransaction h s.p))
  | toggle => exact meetsInv_next (inv_commitToggle (inv_toggleTransaction h s.p))
  | flush => exact execFlush_meetsInv h
  | _ => cases hi

/-- A sensor instruction writes nothing that the invariant reads (R2, R20). -/
theorem exec_sensor_meetsInv {i : Instr} (hi : isSensorInstr i = true) : MeetsInv (exec i s) := by
  intro t ht
  obtain ⟨-, hscs, hfb, -, -, hopen, -, hout, -⟩ := sensorInstructionLeavesTheDisplayDriver i s t hi ht
  exact inv_congr h hfb hscs hout hopen

theorem exec_meetsInv (i : Instr) : MeetsInv (exec i s) := by
  cases hi : isSensorInstr i with
  | true => exact exec_sensor_meetsInv h hi
  | false => exact exec_display_meetsInv h hi

end Instructions

/-- Settles O7: a step waits or performs one instruction, and every instruction keeps the invariant; what waits to be
performed is no part of it. -/
theorem everyStepKeepsTheInvariant : Obligations.EveryStepKeepsTheInvariant := by
  intro s t h hstep
  obtain ⟨rfl, -, -⟩ | ⟨c, rest, i, -, -, hexec⟩ | ⟨word, rest, i, -, -, -, hexec⟩ := step_next hstep
  · exact h
  · have hs : Inv { s with crossings := rest } := inv_congr h rfl rfl rfl rfl
    exact exec_meetsInv hs i t hexec
  · have hs : Inv { s with hostCalls := rest } := inv_congr h rfl rfl rfl rfl
    exact exec_meetsInv hs i t hexec

end Sys2Proof.Machine

/-! Encoding and decoding are inverse to each other (30_encoding.md R60 to R73), and a malformed command word is refused
(R83). The fields are read back first, then the words of each channel. -/

namespace Sys2Proof

/-! ## Operands read back from their bytes -/

section Readback

variable (sel : Byte)

@[simp] theorem decodeWord16_bigEndian16 (mk : Word → Instr) (w : Word) :
    decodeWord16 mk sel (bigEndian16 w) = .ok (mk w) := by
  simp [decodeWord16, bigEndian16]

@[simp] theorem decodeWord16x2_bigEndian16 (mk : Word → Word → Instr) (v w : Word) :
    decodeWord16x2 mk sel (bigEndian16 v ++ bigEndian16 w) = .ok (mk v w) := by
  simp [decodeWord16x2, bigEndian16]

@[simp] theorem decodeSetbaud_bigEndian32 (baud : BitVec 32) :
    decodeSetbaud sel (bigEndian32 baud) = .ok (.setbaud baud) := by
  simp [decodeSetbaud, bigEndian32]

/-- The length field holds the length of the data, up to its greatest value (R73, R88). -/
theorem decodeCrc16_of_length_le {data : List Byte} (h : data.length ≤ 65535) :
    decodeCrc16 sel (bigEndian16 (BitVec.ofNat 16 data.length) ++ data) = .ok (.crc16 data) := by
  have hlen : (BitVec.ofNat 16 data.length).toNat = data.length := by
    rw [BitVec.toNat_ofNat]
    omega
  simp [decodeCrc16, bigEndian16, hlen]

@[simp] theorem decodeSetpix_operands (x y : Word) (c : Colour) :
    decodeSetpix sel (bigEndian16 x ++ bigEndian16 y ++ [colourByte c]) = .ok (.setpix x y c) := by
  cases c <;> simp [decodeSetpix, bigEndian16, colourByte, colourBit, colourOf]

@[simp] theorem decodeClearto_clearOperand (c : Colour) (mark : Bool) :
    decodeClearto sel [clearOperand c mark] = .ok (.clearto c mark) := by
  cases c <;> cases mark <;> rfl

end Readback

/-- A line record is read from its 52 bytes, which are neither a lone byte nor a pair (R70). -/
theorem decodeDisplay_lineRecord (line : Byte) {pixels : List Byte} (h : pixels.length = 50) :
    decodeDisplay (lineRecord line pixels) = .ok (.dwrLine line pixels) := by
  obtain ⟨a, b, rest, rfl⟩ : ∃ a b rest, pixels = a :: b :: rest := by
    match pixels, h with
    | a :: b :: rest, _ => exact ⟨a, b, rest, rfl⟩
  have hrecord : decodeDisplay (lineRecord line (a :: b :: rest)) =
      decodeLineRecord line ((a :: b :: rest) ++ [0]) := rfl
  rw [hrecord, decodeLineRecord, if_pos, Config.lineBytes, List.take_left' h]
  simp only [Config.lineBytes, List.drop_left' h, List.length_append, h, List.length_singleton, and_self]

/-- An exception frame's function byte has the exception bit and, below it, the function code (R65, R66). -/
theorem exceptionFunction_fields : ∀ fn : BitVec 7,
    exceptionFunction fn &&& Config.excBit ≠ 0 ∧ (exceptionFunction fn).setWidth 7 = fn := by decide

theorem decodeFromSensor_exception (addr : Byte) (fn : BitVec 7) (code : Byte) (crc : Word) :
    decodeFromSensor (exceptionBody addr fn code ++ crcField crc) = .ok (.mrsX addr fn code crc) := by
  obtain ⟨hbit, hfn⟩ := exceptionFunction_fields fn
  simp only [decodeFromSensor, exceptionBody, crcField, List.cons_append, List.nil_append, hbit, ne_eq,
    not_false_eq_true, if_true, hfn, le16_lo_hi]

/-- Settles O1: each row's operands are read back from the bytes they were encoded in. -/
theorem decodeOfEncodeIsTheInstruction : Obligations.DecodeOfEncodeIsTheInstruction := by
  intro i hwf
  cases i with
  | mrqR | mrqW =>
    simp [channelOf, encode, decode, decodeToSensor, readRequestBody, writeRequestBody, bigEndian16, crcField,
      Config.fnRead, Config.fnWrite]
  | mrsR | mrsW =>
    simp [channelOf, encode, decode, decodeFromSensor, readResponseBody, writeRequestBody, bigEndian16, crcField,
      Config.fnRead, Config.fnWrite]
  | mrsX addr fn code crc => exact decodeFromSensor_exception addr fn code crc
  | dcl p | dtg p | dwrHeader p => cases p <;> rfl
  | dwrLine line pixels => exact decodeDisplay_lineRecord line (of_decide_eq_true hwf)
  | crc16 data => exact decodeCrc16_of_length_le 0x01 (of_decide_eq_true hwf)
  | rdhr reg => exact decodeWord16_bigEndian16 0x10 .rdhr reg
  | setinst val => exact decodeWord16_bigEndian16 0x23 .setinst val
  | setrange val => exact decodeWord16_bigEndian16 0x29 .setrange val
  | wrsr reg val => exact decodeWord16x2_bigEndian16 0x11 .wrsr reg val
  | getpix x y => exact decodeWord16x2_bigEndian16 0x41 .getpix x y
  | setbaud baud => exact decodeSetbaud_bigEndian32 0x27 baud
  | setpix x y c => exact decodeSetpix_operands 0x40 x y c
  | clearto c mark => exact decodeClearto_clearOperand 0x42 c mark
  | dwrTrailer | getempty | getlevel | getinst | getaddr | setaddr | getbaud | getrange | drain | markall | size
  | hwclear | toggle | flush => rfl

/-! ## What a word that decodes is -/

/-- The bytes are the word of this instruction on this channel. -/
def IsWordOf (ch : Channel) (bytes : List Byte) (i : Instr) : Prop :=
  channelOf i = ch ∧ wellFormed i = true ∧ encode i = bytes

/-- A selector outside R73's table decodes to nothing, whatever follows it. -/
theorem decodeHost_of_unknownSelector {sel : Byte} (h : sel ∉ Machine.hostSelectors) (ops : List Byte) :
    decodeHost (sel :: ops) = .error (.unknownSelector sel) := by
  simp only [Machine.hostSelectors, Machine.fixedLengthCommands, List.map_cons, List.map_nil, List.mem_cons,
    List.not_mem_nil, or_false, not_or] at h
  simp only [decodeHost, h, if_false]

section HostWords

variable {i : Instr} {sel : Byte} {ops : List Byte}

theorem decodeBare_isWordOf {j : Instr} (h : decodeBare j sel ops = .ok i) (hj : IsWordOf .host [sel] j) :
    IsWordOf .host (sel :: ops) i := by
  obtain ⟨rfl, rfl⟩ := decodeBare_ok h
  exact hj

theorem decodeWord16_isWordOf {mk : Word → Instr} (h : decodeWord16 mk sel ops = .ok i)
    (hmk : ∀ w, IsWordOf .host (sel :: bigEndian16 w) (mk w)) : IsWordOf .host (sel :: ops) i := by
  obtain ⟨w, rfl, rfl⟩ := decodeWord16_ok h
  exact hmk w

theorem decodeWord16x2_isWordOf {mk : Word → Word → Instr} (h : decodeWord16x2 mk sel ops = .ok i)
    (hmk : ∀ v w, IsWordOf .host (sel :: (bigEndian16 v ++ bigEndian16 w)) (mk v w)) :
    IsWordOf .host (sel :: ops) i := by
  obtain ⟨v, w, rfl, rfl⟩ := decodeWord16x2_ok h
  exact hmk v w

/-- A command word that decodes is the word of its operation: row by row of R73's selector table. -/
theorem decodeHost_isWordOf {bytes : List Byte} (h : decodeHost bytes = .ok i) : IsWordOf .host bytes i := by
  obtain _ | ⟨sel, ops⟩ := bytes
  · nomatch h
  by_cases hsel : sel ∈ Machine.hostSelectors
  case neg =>
    rw [decodeHost_of_unknownSelector hsel] at h
    nomatch h
  simp only [Machine.hostSelectors, Machine.fixedLengthCommands, List.map_cons, List.map_nil, List.mem_cons,
    List.not_mem_nil, or_false] at hsel
  rcases hsel with rfl | rfl | rfl | rfl | rfl | rfl | rfl | rfl | rfl | rfl | rfl | rfl | rfl | rfl | rfl | rfl |
    rfl | rfl | rfl | rfl | rfl | rfl
  · obtain ⟨data, hlen, rfl, rfl⟩ := decodeCrc16_ok h
    exact ⟨rfl, decide_eq_true hlen, rfl⟩
  · exact decodeWord16_isWordOf (mk := .rdhr) h fun _ => ⟨rfl, rfl, rfl⟩
  · exact decodeWord16x2_isWordOf (mk := .wrsr) h fun _ _ => ⟨rfl, rfl, rfl⟩
  · exact decodeBare_isWordOf (j := .getempty) h ⟨rfl, rfl, rfl⟩
  · exact decodeBare_isWordOf (j := .getlevel) h ⟨rfl, rfl, rfl⟩
  · exact decodeBare_isWordOf (j := .getinst) h ⟨rfl, rfl, rfl⟩
  · exact decodeWord16_isWordOf (mk := .setinst) h fun _ => ⟨rfl, rfl, rfl⟩
  · exact decodeBare_isWordOf (j := .getaddr) h ⟨rfl, rfl, rfl⟩
  · obtain ⟨a, rfl, rfl⟩ := decodeSetaddr_ok h
    exact ⟨rfl, rfl, rfl⟩
  · exact decodeBare_isWordOf (j := .getbaud) h ⟨rfl, rfl, rfl⟩
  · obtain ⟨baud, rfl, rfl⟩ := decodeSetbaud_ok h
    exact ⟨rfl, rfl, rfl⟩
  · exact decodeBare_isWordOf (j := .getrange) h ⟨rfl, rfl, rfl⟩
  · exact decodeWord16_isWordOf (mk := .setrange) h fun _ => ⟨rfl, rfl, rfl⟩
  · exact decodeBare_isWordOf (j := .drain) h ⟨rfl, rfl, rfl⟩
  · obtain ⟨x, y, c, rfl, rfl⟩ := decodeSetpix_ok h
    exact ⟨rfl, rfl, rfl⟩
  · exact decodeWord16x2_isWordOf (mk := .getpix) h fun _ _ => ⟨rfl, rfl, rfl⟩
  · obtain ⟨c, mark, rfl, rfl⟩ := decodeClearto_ok h
    exact ⟨rfl, rfl, rfl⟩
  · exact decodeBare_isWordOf (j := .markall) h ⟨rfl, rfl, rfl⟩
  · exact decodeBare_isWordOf (j := .size) h ⟨rfl, rfl, rfl⟩
  · exact decodeBare_isWordOf (j := .hwclear) h ⟨rfl, rfl, rfl⟩
  · exact decodeBare_isWordOf (j := .toggle) h ⟨rfl, rfl, rfl⟩
  · exact decodeBare_isWordOf (j := .flush) h ⟨rfl, rfl, rfl⟩

end HostWords

section WireWords

variable {i : Instr} {bytes : List Byte}

/-- Taking the fields of a frame apart and putting them together gives its bytes back (R61 to R64, R74). -/
theorem decodeToSensor_isWordOf (h : decodeToSensor bytes = .ok i) : IsWordOf .toSensor bytes i := by
  unfold decodeToSensor at h
  split at h
  case h_1 | h_3 => nomatch h
  split at h
  next hread =>
    obtain ⟨rfl, hcount⟩ := hread
    cases h
    refine ⟨rfl, rfl, ?_⟩
    rw [encode, readRequestBody, ← hcount, bigEndian16_be16, bigEndian16_be16, crcField_le16]
    rfl
  next =>
    split at h
    next hwrite =>
      cases h
      refine ⟨rfl, rfl, ?_⟩
      rw [encode, writeRequestBody, hwrite, bigEndian16_be16, bigEndian16_be16, crcField_le16]
      rfl
    next => nomatch h

/-- A function byte with the exception bit is that bit over its own low seven bits (R65, R66). -/
theorem exceptionFunction_of_excBit : ∀ f : Byte,
    f &&& Config.excBit ≠ 0 → exceptionFunction (f.setWidth 7) = f := by decide

theorem decodeFromSensor_isWordOf (h : decodeFromSensor bytes = .ok i) : IsWordOf .fromSensor bytes i := by
  refine ⟨Machine.decodeFromSensor_channel h, ?_⟩
  unfold decodeFromSensor at h
  split at h
  case h_1 | h_5 => nomatch h
  all_goals
    split at h
    case isFalse => nomatch h
    cases h
    refine ⟨rfl, ?_⟩
  case h_2.isTrue hexception =>
    rw [encode, exceptionBody, exceptionFunction_of_excBit _ hexception, crcField_le16]
    rfl
  case h_3.isTrue hread =>
    obtain ⟨rfl, rfl⟩ := hread
    rw [encode, readResponseBody, bigEndian16_be16, crcField_le16]
    rfl
  case h_4.isTrue hwrite =>
    rw [encode, writeRequestBody, hwrite, bigEndian16_be16, bigEndian16_be16, crcField_le16]
    rfl

theorem decodeDisplay_isWordOf (h : decodeDisplay bytes = .ok i) : IsWordOf .display bytes i := by
  unfold decodeDisplay at h
  split at h
  case h_1 => nomatch h
  case h_2 m =>
    obtain ⟨rfl, rfl⟩ | ⟨p, rfl, rfl⟩ := decodeDisplayByte_ok h
    · exact ⟨rfl, rfl, rfl⟩
    · exact ⟨rfl, rfl, rfl⟩
  case h_3 m z =>
    split at h
    case isFalse => nomatch h
    case isTrue hz =>
      obtain ⟨p, ⟨rfl, rfl⟩ | ⟨rfl, rfl⟩⟩ := decodeDisplayPair_ok h
      · exact ⟨rfl, rfl, hz ▸ rfl⟩
      · exact ⟨rfl, rfl, hz ▸ rfl⟩
  case h_4 l rest _ _ =>
    obtain ⟨pixels, hlen, rfl, rfl⟩ := decodeLineRecord_ok h
    exact ⟨rfl, decide_eq_true hlen, rfl⟩

end WireWords

/-- Settles O2: channel by channel, from what each part of the decoder accepts. -/
theorem encodeOfDecodeIsTheWord : Obligations.EncodeOfDecodeIsTheWord := by
  intro ch bytes i h
  cases ch with
  | host => exact decodeHost_isWordOf h
  | toSensor => exact decodeToSensor_isWordOf h
  | fromSensor => exact decodeFromSensor_isWordOf h
  | display => exact decodeDisplay_isWordOf h

/-- Settles O5: the decoder evaluated on the five words. -/
theorem writtenWordsDecode : Obligations.WrittenWordsDecode :=
  ⟨rfl, rfl, rfl, rfl, rfl⟩

/-! ## Malformed command words -/

section WrongLength

variable {sel : Byte} {ops : List Byte}

theorem decodeBare_wrongLength (i : Instr) (h : ops.length ≠ 0) : decodeBare i sel ops = .error (.wrongLength sel) := by
  unfold decodeBare
  split
  · exact absurd rfl h
  · rfl

theorem decodeWord16_wrongLength (mk : Word → Instr) (h : ops.length ≠ 2) :
    decodeWord16 mk sel ops = .error (.wrongLength sel) := by
  unfold decodeWord16
  split
  · exact absurd rfl h
  · rfl

theorem decodeWord16x2_wrongLength (mk : Word → Word → Instr) (h : ops.length ≠ 4) :
    decodeWord16x2 mk sel ops = .error (.wrongLength sel) := by
  unfold decodeWord16x2
  split
  · exact absurd rfl h
  · rfl

theorem decodeSetaddr_wrongLength (h : ops.length ≠ 1) : decodeSetaddr sel ops = .error (.wrongLength sel) := by
  unfold decodeSetaddr
  split
  · exact absurd rfl h
  · rfl

theorem decodeSetbaud_wrongLength (h : ops.length ≠ 4) : decodeSetbaud sel ops = .error (.wrongLength sel) := by
  unfold decodeSetbaud
  split
  · exact absurd rfl h
  · rfl

theorem decodeSetpix_wrongLength (h : ops.length ≠ 5) : decodeSetpix sel ops = .error (.wrongLength sel) := by
  unfold decodeSetpix
  split
  · exact absurd rfl h
  · rfl

theorem decodeClearto_wrongLength (h : ops.length ≠ 1) : decodeClearto sel ops = .error (.wrongLength sel) := by
  unfold decodeClearto
  split
  · exact absurd rfl h
  · rfl

/-- CRC16's word has at least its two length bytes (R73). -/
theorem decodeCrc16_of_noLength (h : ops.length < 2) : decodeCrc16 sel ops = .error (.wrongLength sel) := by
  unfold decodeCrc16
  split
  next => simp only [List.length_cons] at h; omega
  next => rfl

/-- A command word of fixed length with another number of operand bytes: row by row of R73's selector table. -/
theorem decodeHost_wrongLength {n : Nat} (hsel : (sel, n) ∈ Machine.fixedLengthCommands) (h : ops.length ≠ n) :
    decodeHost (sel :: ops) = .error (.wrongLength sel) := by
  simp only [Machine.fixedLengthCommands, List.mem_cons, List.not_mem_nil, or_false, Prod.mk.injEq] at hsel
  rcases hsel with ⟨rfl, rfl⟩ | ⟨rfl, rfl⟩ | ⟨rfl, rfl⟩ | ⟨rfl, rfl⟩ | ⟨rfl, rfl⟩ | ⟨rfl, rfl⟩ | ⟨rfl, rfl⟩ |
    ⟨rfl, rfl⟩ | ⟨rfl, rfl⟩ | ⟨rfl, rfl⟩ | ⟨rfl, rfl⟩ | ⟨rfl, rfl⟩ | ⟨rfl, rfl⟩ | ⟨rfl, rfl⟩ |
    ⟨rfl, rfl⟩ | ⟨rfl, rfl⟩ | ⟨rfl, rfl⟩ | ⟨rfl, rfl⟩ | ⟨rfl, rfl⟩ | ⟨rfl, rfl⟩ | ⟨rfl, rfl⟩
  · exact decodeWord16_wrongLength .rdhr h
  · exact decodeWord16x2_wrongLength .wrsr h
  · exact decodeBare_wrongLength .getempty h
  · exact decodeBare_wrongLength .getlevel h
  · exact decodeBare_wrongLength .getinst h
  · exact decodeWord16_wrongLength .setinst h
  · exact decodeBare_wrongLength .getaddr h
  · exact decodeSetaddr_wrongLength h
  · exact decodeBare_wrongLength .getbaud h
  · exact decodeSetbaud_wrongLength h
  · exact decodeBare_wrongLength .getrange h
  · exact decodeWord16_wrongLength .setrange h
  · exact decodeBare_wrongLength .drain h
  · exact decodeSetpix_wrongLength h
  · exact decodeWord16x2_wrongLength .getpix h
  · exact decodeClearto_wrongLength h
  · exact decodeBare_wrongLength .markall h
  · exact decodeBare_wrongLength .size h
  · exact decodeBare_wrongLength .hwclear h
  · exact decodeBare_wrongLength .toggle h
  · exact decodeBare_wrongLength .flush h

end WrongLength

/-- A call whose word does not decode is refused with the decoder's reason, and nothing is performed (R83). -/
theorem step_of_undecoded {s : Machine.State} {word : List Byte} {rest : List (List Byte)} {e : DecodeError}
    (hc : s.crossings = []) (hw : s.hostCalls = word :: rest) (he : decodeHost word = .error e) :
    Machine.step s = .refused (.invalidWord e) := by
  unfold Machine.step Machine.fetch Machine.callInstr
  simp only [hc, hw, decode, he]

/-- Settles O4: each clause is a word that the decoder rejects with the clause's reason. -/
theorem malformedCommandWordIsRefused : Obligations.MalformedCommandWordIsRefused := by
  intro s sel ops rest hc hw
  refine ⟨fun hsel => ?_, fun n hsel hlen => ?_, fun hsel hlen => ?_, fun h l data hsel hops hlen => ?_,
    fun xh xl yh yl c hsel hops h0 h1 => ?_, fun b hsel hops hb => ?_⟩ <;> refine step_of_undecoded hc hw ?_
  · exact decodeHost_of_unknownSelector hsel ops
  · exact decodeHost_wrongLength hsel hlen
  · subst hsel
    exact decodeCrc16_of_noLength hlen
  · subst hsel hops
    refine if_neg fun heq => hlen ?_
    rw [heq, be16_toNat, Nat.mul_comm]
  · subst hsel hops
    exact if_neg (not_or.mpr ⟨h0, h1⟩)
  · subst hsel hops
    exact if_neg hb

end Sys2Proof

/-! An encoded instruction is a word of its row of the opcode table (30_encoding.md R60): its length, and its fixed bits
under the row's mask, compared byte by byte. -/

namespace Sys2Proof

/-! ## Lengths -/

theorem encodedLength (i : Instr) : Laws.EncodedLength.Statement i := by
  cases i with
  | mrqR => exact Laws.EncodedLength.mrqR _ _ _
  | mrsR => exact Laws.EncodedLength.mrsR _ _ _
  | mrqW => exact Laws.EncodedLength.mrqW _ _ _ _
  | mrsW => exact Laws.EncodedLength.mrsW _ _ _ _
  | mrsX => exact Laws.EncodedLength.mrsX _ _ _ _
  | dwrLine => exact Laws.EncodedLength.dwrLine _ _
  | crc16 => exact Laws.EncodedLength.crc16 _
  | setpix => exact Laws.EncodedLength.setpix _ _ _
  | clearto => exact Laws.EncodedLength.clearto _ _
  | _ => exact fun _ => rfl

/-! ## Fixed bits -/

theorem numberBytes_succ (n w : Nat) : numberBytes (n + 1) w = numberBytes n (w >>> 8) ++ [BitVec.ofNat 8 w] := by
  have hshift : ∀ i ∈ List.range n, w >>> (8 * (n - i)) = w >>> 8 >>> (8 * (n - 1 - i)) := fun i hi => by
    rw [← Nat.shiftRight_add, show 8 + 8 * (n - 1 - i) = 8 * (n - i) by have := List.mem_range.mp hi; omega]
  simpa [numberBytes, List.range_succ] using fun i hi => congrArg (BitVec.ofNat 8) (hshift i (List.mem_range.mpr hi))

/-- A number of at most n bytes is read back from its n bytes. -/
theorem bytesNumber_numberBytes (n w : Nat) (h : w < 256 ^ n) : bytesNumber (numberBytes n w) = w := by
  induction n generalizing w with
  | zero =>
    rw [Nat.lt_one_iff.mp h]
    rfl
  | succ n ih =>
    have hhigh : w >>> 8 < 256 ^ n := by
      rw [Nat.shiftRight_eq_div_pow]
      exact Nat.div_lt_of_lt_mul (by rwa [Nat.pow_succ, Nat.mul_comm] at h)
    rw [numberBytes_succ, bytesNumber_append_byte, ih _ hhigh, Nat.shiftRight_eq_div_pow, BitVec.toNat_ofNat]
    exact Nat.div_add_mod' w 256

/-- A row's mask and fixed bits lie within its bytes. -/
theorem tableRow_lt (i : Instr) :
    (tableRow i).mask < 256 ^ (tableRow i).bytes ∧ (tableRow i).fixed < 256 ^ (tableRow i).bytes := by
  cases i <;> simp [tableRow]

/-- A byte sequence has its row's fixed bits where each byte has those of its two hexadecimal digits. -/
theorem fixedBits_of_bytes {i : Instr} {bytes : List Byte} (hlen : bytes.length = (tableRow i).bytes)
    (h : List.zipWith (· &&& ·) bytes (numberBytes (tableRow i).bytes (tableRow i).mask) =
      numberBytes (tableRow i).bytes (tableRow i).fixed) :
    bytesNumber bytes &&& (tableRow i).mask = (tableRow i).fixed := by
  obtain ⟨hmask, hfixed⟩ := tableRow_lt i
  have hmaskLen : bytes.length = (numberBytes (tableRow i).bytes (tableRow i).mask).length := by
    simp [numberBytes, hlen]
  calc bytesNumber bytes &&& (tableRow i).mask
      = bytesNumber bytes &&& bytesNumber (numberBytes (tableRow i).bytes (tableRow i).mask) := by
        rw [bytesNumber_numberBytes _ _ hmask]
    _ = bytesNumber (numberBytes (tableRow i).bytes (tableRow i).fixed) := by rw [bytesNumber_land _ _ hmaskLen, h]
    _ = (tableRow i).fixed := bytesNumber_numberBytes _ _ hfixed

/-- A mask of the last byte alone sees that byte alone. -/
theorem bytesNumber_append_byte_land_0xFF (bytes : List Byte) (b : Byte) :
    bytesNumber (bytes ++ [b]) &&& 0xFF = b.toNat := by
  calc bytesNumber (bytes ++ [b]) &&& 0xFF
      = (bytesNumber bytes &&& 0) * 256 + (b &&& 0xFF).toNat := by
        rw [bytesNumber_append_byte]
        exact land_byte_digit (bytesNumber bytes) 0 b 0xFF
    _ = b.toNat := by rw [Nat.and_zero, Nat.zero_mul, Nat.zero_add, show b &&& 0xFF = b from BitVec.and_allOnes]

/-- The exception bit is the one fixed bit of an exception frame (R65). -/
theorem exceptionFunction_land_excBit : ∀ fn : BitVec 7, exceptionFunction fn &&& 128#8 = 128#8 := by decide

theorem encode_fixedBits (i : Instr) (hwf : wellFormed i = true) :
    bytesNumber ((encode i).take (tableRow i).bytes) &&& (tableRow i).mask = (tableRow i).fixed := by
  cases i with
  | dcl p | dtg p | dwrHeader p => cases p <;> rfl
  | clearto c mark => cases c <;> cases mark <;> rfl
  | dwrLine line pixels =>
    have hlen : (encode (.dwrLine line pixels)).length = 52 := encodedLength _ hwf
    rw [tableRow, List.take_of_length_le hlen.le]
    exact bytesNumber_append_byte_land_0xFF (line :: pixels) 0
  | mrsX addr fn code crc =>
    refine fixedBits_of_bytes rfl ?_
    simp [encode, exceptionBody, crcField, numberBytes, tableRow, List.range_succ, exceptionFunction_land_excBit]
  | setpix x y c =>
    refine fixedBits_of_bytes rfl ?_
    cases c <;> simp [encode, bigEndian16, colourByte, colourBit, numberBytes, tableRow, List.range_succ]
  | mrqR | mrsR | mrqW | mrsW =>
    refine fixedBits_of_bytes rfl ?_
    simp [encode, readRequestBody, readResponseBody, writeRequestBody, bigEndian16, crcField, numberBytes, tableRow,
      List.range_succ, Config.fnRead, Config.fnWrite, Config.readByteCount, Config.readCount, hi, lo]
  | crc16 | rdhr | wrsr | setinst | setaddr | setbaud | setrange | getpix =>
    refine fixedBits_of_bytes rfl ?_
    simp [encode, bigEndian16, bigEndian32, numberBytes, tableRow, List.range_succ]
  | dwrTrailer | getempty | getlevel | getinst | getaddr | getbaud | getrange | drain | markall | size | hwclear
  | toggle | flush => rfl

/-- Settles O3: the length row by row, the fixed bits byte by byte. -/
theorem encodedWordMatchesItsTableRow : Obligations.EncodedWordMatchesItsTableRow :=
  fun i hwf => ⟨encodedLength i hwf, encode_fixedBits i hwf⟩

end Sys2Proof

/-! The wire forms as steps (30_encoding.md R62 to R71; log 1): the five frames on the serial link, the lone display
transactions, and a partial write put together from its parts. -/

namespace Sys2Proof.Machine

/-! ## Frames on the serial link -/

theorem finishSerWrite_of_ok {s : State} (h : nextSerAnswer s = .ok) (tx : List Byte) :
    finishSerWrite (serWrite tx s) = (s.serAnswered.sendSerial tx).finish .ok := by
  rw [serWrite_of_ok h]
  rfl

/-- Settles O55: a frame to the sensor is one accepted SerWrite, a frame from it joins what the transport holds. -/
theorem framesCrossTheSerialLink : Obligations.FramesCrossTheSerialLink := by
  intro s addr code fn reg val crc
  refine ⟨fun h => ?_, fun h => ?_, rfl, rfl, rfl⟩
  · exact congrArg Host.Outcome.next (finishSerWrite_of_ok h (readRequestBody addr reg ++ crcField crc))
  · exact congrArg Host.Outcome.next (finishSerWrite_of_ok h (writeRequestBody addr reg val ++ crcField crc))

/-- READEXACT of a count that is the first chunk's own length takes that chunk (R101). -/
theorem readExact_chunk {c : List Byte} (hc : c ≠ []) (q : List RxEvent) :
    readExact c.length (.data c :: q) = (.ok c, q) := by
  obtain ⟨fuel, hfuel⟩ := Nat.exists_eq_succ_of_ne_zero (List.length_pos_iff.mpr hc).ne'
  unfold readExact
  rw [hfuel, readLoop_chunk hc hfuel.le, hfuel, Nat.sub_self, readLoop_done, List.nil_append]

/-- An exchange whose response waits as one chunk of the expected length. -/
theorem exchange_of_chunk {s : State} {c : List Byte} {q : List RxEvent} (h : nextSerAnswer s = .ok) (hc : c ≠ [])
    (hq : s.serialRx = .data c :: q) (tx : List Byte) :
    exchange tx c.length s = (.ok c, { s.serAnswered with serialOut := s.serialOut ++ tx, serialRx := q }) := by
  have hsettled : fallsShort c.length s.serialRx = false := by
    rw [hq]
    exact fallsShort_of_enough (chunks := [c]) q (by simp)
  rw [exchange_of_ok h tx hsettled, hq, readExact_chunk hc]

/-- A register read whose good response waits as one chunk answers the response's value (R103, R104). -/
theorem modbusRead_of_readResponse {s : State} {val : Word} {q : List RxEvent} (h : nextSerAnswer s = .ok)
    (hq : s.serialRx = .data (readResponse s.devAddr val) :: q) (reg : Word) :
    modbusRead reg s = (.ok val, { s.serAnswered with
      serialOut := s.serialOut ++ readRequest s.devAddr reg, serialRx := q }) := by
  have hexchange := exchange_of_chunk (c := readResponse s.devAddr val) h (List.cons_ne_nil _ _) hq
    (readRequest s.devAddr reg)
  have hvalid : validate s.devAddr (readResponse s.devAddr val) Config.readRspLen Config.fnRead = none :=
    validate_readResponse s.devAddr val
  have hvalue : be16 ((readResponse s.devAddr val).getD 3 0) ((readResponse s.devAddr val).getD 4 0) = val :=
    be16_hi_lo val
  unfold modbusRead
  rw [show exchange (sealFrame (readRequestBody s.devAddr reg)) Config.readRspLen s = _ from hexchange]
  simp only [hvalid, hvalue]

/-- Settles O56: on an empty transport the frame that arrives is the whole of what the read then finds. -/
theorem arrivedResponseIsRead : Obligations.ArrivedResponseIsRead := by
  intro s t reg val hok hrx harrive
  have ht : t = { s with serialRx := [.data (readResponse s.devAddr val)] } := by
    rw [← Host.Outcome.next.inj harrive, State.receive, hrx]
    rfl
  have hread := modbusRead_of_readResponse (s := t) (val := val) (q := []) (by rw [ht]; exact hok) (by rw [ht]) reg
  rw [exec_of_readRegister (i := .rdhr reg) rfl, hread, ht]
  simp only [finishRead, State.finish, State.serAnswered, hrx]

/-! ## Lone display transactions -/

/-- Settles O57: the two bytes inside the select bracket, with no commit after them. -/
theorem loneTransactionsAreSent : Obligations.LoneTransactionsAreSent := by
  intro s pol h
  rw [← clearStream_eq, ← toggleStream_eq]
  refine ⟨congrArg (fun r => Host.Outcome.next (finishBus r)) (clearTransaction_of_ok h pol), ?_⟩
  exact congrArg (fun r => Host.Outcome.next (finishBus r)) (transact_of_ok h (toggleStream pol))

/-! ## The parts of a partial write -/

section Parts

variable {s : State} {p : Bool} {line : Byte} {recs : List LineRecord}

theorem execDwrLine_of_refused {why : NeverEmitted} (h : recordRefused s.openWrite line = some why)
    (pixels : List Byte) : execDwrLine line pixels s = .refused (.neverEmitted why) := by
  unfold execDwrLine
  rw [h]

/-- A record whose wire line address is legal and above those before it is added to the stream (R70, R81). -/
theorem execDwrLine_of_emittable (hw : s.openWrite = some ⟨p, recs⟩) (hlegal : 1 ≤ line.toNat ∧ line.toNat ≤ 240)
    (habove : ∀ r ∈ recs, r.1.toNat < line.toNat) (pixels : List Byte) :
    execDwrLine line pixels s = .next (s.setOpenWrite (some ⟨p, recs ++ [(line, pixels)]⟩)) := by
  have htaken : recordRefused s.openWrite line = none :=
    (recordRefused_eq_none_iff _ _).mpr ⟨_, hw, hlegal, habove⟩
  unfold execDwrLine
  rw [htaken, hw]
  rfl

theorem recordRefused_of_illegal (h : line.toNat = 0 ∨ 241 ≤ line.toNat) :
    recordRefused (some ⟨p, recs⟩) line = some (.lineAddress line) := by
  have hline : legalWireLine line = false := decide_eq_false (by simp only [Config.height]; omega)
  simp only [recordRefused, hline, if_true]

theorem recordRefused_of_order (hlegal : 1 ≤ line.toNat ∧ line.toNat ≤ 240)
    (h : ∃ r ∈ recs, line.toNat ≤ r.1.toNat) : recordRefused (some ⟨p, recs⟩) line = some (.lineOrder line) := by
  have hline : legalWireLine line = true := decide_eq_true hlegal
  have habove : (recs.all fun r => decide (r.1.toNat < line.toNat)) = false := by
    simpa [List.all_eq_false] using h
  simp only [recordRefused, hline, habove, Bool.true_eq_false, Bool.false_eq_true, if_false]

theorem execDwrTrailer_of_records (hw : s.openWrite = some ⟨p, recs⟩) (hrecs : recs ≠ []) :
    execDwrTrailer s = .next (finishBus (writeTransaction p recs (s.setOpenWrite none))) := by
  unfold execDwrTrailer
  rw [hw]
  exact if_neg hrecs

end Parts

/-- Settles O59: the reason of each refusal, in the order in which the model looks for one. -/
theorem neverEmittedPartsAreRefused : Obligations.NeverEmittedPartsAreRefused := by
  intro s pol line pixels recs
  refine ⟨fun hw => ⟨?_, ?_⟩, fun hw => ?_, fun hw hline => ?_, fun hw h1 h240 horder => ?_⟩
  · exact execDwrLine_of_refused (by rw [hw]; rfl) pixels
  · simp only [exec, execDwrTrailer, hw]
  · simp only [exec, execDwrTrailer, hw, if_true]
  · exact execDwrLine_of_refused (by rw [hw, recordRefused_of_illegal hline]) pixels
  · exact execDwrLine_of_refused (by rw [hw, recordRefused_of_order ⟨h1, h240⟩ horder]) pixels

/-! ## The ghost panel after a partial write -/

section PanelSet

variable {lines : List (Nat × Option (List Byte))} {y : Nat} (hy : y < 240)
include hy

theorem panelLine_panelSet_of_not_mem (pan : Panel) (h : ∀ l ∈ lines, l.1 ≠ y) :
    panelLine (panelSet pan lines) y = panelLine pan y := by
  induction lines generalizing pan with
  | nil => rfl
  | cons l lines ih =>
    rw [List.forall_mem_cons] at h
    calc panelLine (panelSet pan (l :: lines)) y
        = panelLine (pan.setIfInBounds l.1 l.2) y := ih _ h.2
      _ = panelLine pan y := by rw [panelLine_set _ _ _ _ hy, if_neg h.1]

/-- Of lines that are all different each has its own value afterwards. -/
theorem panelLine_panelSet_of_mem (pan : Panel) (hdiff : lines.Pairwise fun l m => l.1 ≠ m.1)
    {v : Option (List Byte)} (h : (y, v) ∈ lines) : panelLine (panelSet pan lines) y = v := by
  induction lines generalizing pan with
  | nil => nomatch h
  | cons l lines ih =>
    obtain ⟨hl, hrest⟩ := List.pairwise_cons.mp hdiff
    obtain rfl | h := List.mem_cons.mp h
    · calc panelLine (panelSet pan ((y, v) :: lines)) y
          = panelLine (pan.setIfInBounds y v) y :=
            panelLine_panelSet_of_not_mem hy _ fun m hm => (hl m hm).symm
        _ = v := by rw [panelLine_set _ _ _ _ hy, if_pos rfl]
    · exact ih _ hrest h

end PanelSet

/-- What a partial write that succeeds leaves on the panel (R163): the records' lines, by their wire line addresses. -/
theorem panelLine_of_emittable {recs : List LineRecord} (h : emittable recs) (pan : Panel) :
    (∀ r ∈ recs, panelLine (panelSet pan (recs.map fun r => (bufferLine r.1, some r.2))) (r.1.toNat - 1) = some r.2) ∧
    ∀ y, y < 240 → (∀ r ∈ recs, r.1.toNat ≠ y + 1) →
      panelLine (panelSet pan (recs.map fun r => (bufferLine r.1, some r.2))) y = panelLine pan y := by
  obtain ⟨hlegal, hasc⟩ := h
  refine ⟨fun r hr => ?_, fun y hy hother => ?_⟩
  · have hdiff : (recs.map fun r => (bufferLine r.1, some r.2)).Pairwise fun l m => l.1 ≠ m.1 := by
      refine List.pairwise_map.mpr (hasc.imp_of_mem fun {a b} ha hb hlt => ?_)
      have := hlegal a ha
      simp only [bufferLine, Config.lineBase]
      omega
    have hline : r.1.toNat - 1 < 240 := by
      have := hlegal r hr
      omega
    exact panelLine_panelSet_of_mem hline pan hdiff (List.mem_map.mpr ⟨r, hr, rfl⟩)
  · refine panelLine_panelSet_of_not_mem hy pan fun l hl => ?_
    obtain ⟨r, hr, rfl⟩ := List.mem_map.mp hl
    have := hlegal r hr
    have := hother r hr
    simp only [bufferLine, Config.lineBase]
    omega

/-- Settles O58: the header and the records put the stream together, the trailer is one transaction of it. -/
theorem partsMakeAPartialWrite : Obligations.PartsMakeAPartialWrite := by
  intro s pol line pixels recs
  refine ⟨rfl, fun hw h1 h240 habove => execDwrLine_of_emittable hw ⟨h1, h240⟩ habove pixels,
    fun hw hrecs hemit hok => ⟨panelSet s.panel (recs.map fun r => (bufferLine r.1, some r.2)), ?_,
      panelLine_of_emittable hemit s.panel⟩⟩
  rw [← writeStream_eq]
  refine (execDwrTrailer_of_records hw hrecs).trans ?_
  rw [writeTransaction_of_ok ((nextBusAnswer_setOpenWrite s none).trans hok)]
  rfl

/-! ## The parts together -/

theorem after_of_exec {i : Instr} {s t : State} (h : exec i s = .next t) : after i s = t := by
  unfold after
  rw [h]

/-- Records that can follow those under way are added one after another. -/
theorem runInstrs_records {p : Bool} (more : List LineRecord) {recs : List LineRecord} {s : State}
    (hw : s.openWrite = some ⟨p, recs⟩) (h : emittable (recs ++ more)) :
    runInstrs (more.map fun r => .dwrLine r.1 r.2) s = s.setOpenWrite (some ⟨p, recs ++ more⟩) := by
  induction more generalizing recs s with
  | nil =>
    rw [List.append_nil, ← hw]
    rfl
  | cons r more ih =>
    obtain ⟨hlegal, hasc⟩ := h
    have hnext := execDwrLine_of_emittable hw (hlegal r (by simp))
      (fun q hq => (List.pairwise_append.mp hasc).2.2 q hq r (by simp)) r.2
    have hafter : after (.dwrLine r.1 r.2) s = s.setOpenWrite (some ⟨p, recs ++ [r]⟩) := after_of_exec hnext
    have hemit : emittable (recs ++ [r] ++ more) := by
      rw [List.append_assoc]
      exact ⟨hlegal, hasc⟩
    calc runInstrs ((r :: more).map fun r => .dwrLine r.1 r.2) s
        = runInstrs (more.map fun r => .dwrLine r.1 r.2) (s.setOpenWrite (some ⟨p, recs ++ [r]⟩)) := by
          rw [← hafter]
          rfl
      _ = s.setOpenWrite (some ⟨p, recs ++ r :: more⟩) := by
          rw [ih rfl hemit, List.append_assoc]
          rfl

theorem wireLine_toNat {y : Nat} (h : y < 240) : (wireLine y).toNat = y + 1 := by
  simp only [wireLine, Config.lineBase, BitVec.toNat_ofNat]
  omega

/-- The dirty lines' records in ascending order are a stream that the block can emit (R81, R163). -/
theorem emittable_dirtyRecords (m : Memory) (d : BitVec 240) : emittable ((dirtyLines d).map (fbRecord m)) := by
  have hlt : ∀ y ∈ dirtyLines d, y < 240 := fun y hy => (mem_dirtyLines.mp hy).1
  refine ⟨List.forall_mem_map.mpr fun y hy => ?_,
    List.pairwise_map.mpr ((dirtyLines_ascending d).imp_of_mem fun {a b} ha hb hab => ?_)⟩
  · have := hlt y hy
    simp only [fbRecord, wireLine_toNat this]
    omega
  · simpa only [fbRecord, wireLine_toNat (hlt a ha), wireLine_toNat (hlt b hb), Nat.add_lt_add_iff_right] using hab

section OpenWrite

variable (s : State) (w : Option PartialWrite)

theorem csSet_setOpenWrite (b : Bool) : (s.setOpenWrite w).csSet b = (s.csSet b).setOpenWrite w := by
  rw [csSet_eq, csSet_eq]
  rfl

theorem selectUnspecified_setOpenWrite :
    (s.setOpenWrite w).selectUnspecified = s.selectUnspecified.setOpenWrite w := by
  rw [selectUnspecified_eq, selectUnspecified_eq]
  rfl

theorem busWrite_setOpenWrite (bytes : List Byte) :
    busWrite bytes (s.setOpenWrite w) = ((busWrite bytes s).1, (busWrite bytes s).2.setOpenWrite w) := by
  unfold busWrite
  rw [nextBusAnswer_setOpenWrite]
  split <;> rfl

/-- What partial write is being put together has no part in a transaction. -/
theorem transact_setOpenWrite (bytes : List Byte) :
    transact bytes (s.setOpenWrite w) = ((transact bytes s).1, (transact bytes s).2.setOpenWrite w) := by
  unfold transact
  rw [csSet_setOpenWrite, busWrite_setOpenWrite]
  obtain ⟨_ | ⟨e, n⟩, t⟩ := busWrite bytes (s.csSet true)
  · exact congrArg (Prod.mk none) (csSet_setOpenWrite t w false)
  · exact congrArg (Prod.mk (some e)) (selectUnspecified_setOpenWrite t w)

theorem writeTransaction_setOpenWrite (p : Bool) (recs : List LineRecord) :
    writeTransaction p recs (s.setOpenWrite w) =
      ((writeTransaction p recs s).1, (writeTransaction p recs s).2.setOpenWrite w) := by
  unfold writeTransaction
  rw [transact_setOpenWrite]
  obtain ⟨_ | e, t⟩ := transact (writeStream p recs) s <;> rfl

end OpenWrite

/-- A transaction alone commits nothing: P and DIRTY stay (R146, R166). -/
theorem writeTransaction_p_dirty (p : Bool) (recs : List LineRecord) (s : State) :
    (writeTransaction p recs s).2.p = s.p ∧ (writeTransaction p recs s).2.dirty = s.dirty := by
  obtain ⟨pan, hpan⟩ := writeTransaction_state p recs s
  obtain ⟨r, scs, draws, events, htransact, -⟩ := transact_spec (writeStream p recs) s
  rw [hpan, htransact]
  exact ⟨rfl, rfl⟩

/-- The trailer ends as FLUSH does, but commits nothing. -/
theorem finishBus_eq_commitClean (r : Option BusError × State) :
    finishBus (r.1, r.2.setOpenWrite none) =
      { commitClean r with p := r.2.p, dirty := r.2.dirty, openWrite := none } := by
  obtain ⟨_ | e, t⟩ := r <;> rfl

theorem runInstrs_append (is js : List Instr) (s : State) : runInstrs (is ++ js) s = runInstrs js (runInstrs is s) :=
  List.foldl_append

/-- The header, records that the block can emit, and the trailer are one transaction of the stream (R70, R71). -/
theorem runInstrs_parts (p : Bool) {recs : List LineRecord} (s : State) (hrecs : recs ≠ []) (h : emittable recs) :
    runInstrs ([.dwrHeader p] ++ recs.map (fun r => .dwrLine r.1 r.2) ++ [.dwrTrailer]) s =
      finishBus (writeTransaction p recs (s.setOpenWrite none)) := by
  have hrecords : runInstrs (recs.map fun r => .dwrLine r.1 r.2) (s.setOpenWrite (some ⟨p, []⟩)) =
      s.setOpenWrite (some ⟨p, recs⟩) := runInstrs_records recs (recs := []) rfl h
  have htrailer : exec .dwrTrailer (s.setOpenWrite (some ⟨p, recs⟩)) =
      .next (finishBus (writeTransaction p recs (s.setOpenWrite none))) :=
    execDwrTrailer_of_records (s := s.setOpenWrite (some ⟨p, recs⟩)) rfl hrecs
  calc runInstrs ([.dwrHeader p] ++ recs.map (fun r => .dwrLine r.1 r.2) ++ [.dwrTrailer]) s
      = runInstrs [.dwrTrailer] (runInstrs (recs.map fun r => .dwrLine r.1 r.2) (s.setOpenWrite (some ⟨p, []⟩))) := by
        rw [runInstrs_append, runInstrs_append]
        rfl
    _ = after .dwrTrailer (s.setOpenWrite (some ⟨p, recs⟩)) := by rw [hrecords]; rfl
    _ = finishBus (writeTransaction p recs (s.setOpenWrite none)) := after_of_exec htrailer

/-- Settles O60: both are one transaction of the dirty lines' stream; only FLUSH commits. -/
theorem partsTogetherAreTheFlush : Obligations.PartsTogetherAreTheFlush := by
  intro s t hdirty hflush
  have ht : t = commitClean (writeTransaction s.p ((dirtyLines s.dirty).map (fbRecord s.fb)) s) := by
    rw [← Host.Outcome.next.inj hflush]
    exact if_neg hdirty
  have hrecs : (dirtyLines s.dirty).map (fbRecord s.fb) ≠ [] :=
    fun h => hdirty ((dirtyLines_eq_nil_iff s.dirty).mp (List.map_eq_nil_iff.mp h))
  have hparts := runInstrs_parts s.p s hrecs (emittable_dirtyRecords s.fb s.dirty)
  obtain ⟨hp, hd⟩ := writeTransaction_p_dirty s.p ((dirtyLines s.dirty).map (fbRecord s.fb)) s
  rw [writeTransaction_setOpenWrite, finishBus_eq_commitClean, hp, hd, ← ht, List.map_map] at hparts
  exact hparts

end Sys2Proof.Machine

/-! The CRC unit (40_crc16.md): CRC16 is the byte loop of R91 and R92, and R95 follows from what the byte step does to an
accumulator fed its own low byte. -/

namespace Sys2Proof.Machine

/-- R91's test by a mask is the test of bit 0. -/
theorem and_one_eq_one_iff (a : Word) : a &&& 1 = 1 ↔ a.getLsbD 0 = true := by
  change a &&& 1#16 = 1#16 ↔ _
  rw [BitVec.and_one_eq_setWidth_ofBool_getLsbD]
  cases a.getLsbD 0 <;> decide

/-- One iteration as R91 writes it, with the mask. -/
theorem crcShift_eq_mask : crcShift = fun a : Word => if a &&& 1 = 1 then (a >>> 1) ^^^ 0xA001 else a >>> 1 := by
  funext a
  exact if_congr (and_one_eq_one_iff a).symm rfl rfl

theorem crcShifts_eq_iterate (n : Nat) (a : Word) : crcShifts n a = crcShift^[n] a := by
  induction n generalizing a with
  | zero => rfl
  | succ n ih => exact ih (crcShift a)

/-- The byte step as R91 writes it, the shift done eight times. -/
theorem crcStep_eq_iterate : crcStep = fun acc b => crcShift^[8] (acc ^^^ b.setWidth 16) := by
  funext acc b
  exact crcShifts_eq_iterate 8 _

/-- Settles O16: the loop's shift is the unit's, its byte step is the unit's, and CRC16 only adds its result. -/
theorem crc16ReturnsTheChecksum : Obligations.Crc16ReturnsTheChecksum := by
  intro data s
  rw [← crcShift_eq_mask, ← crcStep_eq_iterate]
  rfl

/-- Settles O17: the low CRC byte leaves the high byte alone in the accumulator, the high byte then leaves zero. -/
theorem crcOfSealedMessageIsZero : Obligations.CrcOfSealedMessageIsZero := by
  intro s
  calc crc16 (s ++ [lo (crc16 s), hi (crc16 s)])
      = crcStep (crcStep (crc16 s) (lo (crc16 s))) (hi (crc16 s)) := crc16_append s _
    _ = crcStep (zext16 (hi (crc16 s))) (hi (crc16 s)) := by rw [crcStep_own_low_byte]
    _ = 0x0000 := crcStep_own_byte _

end Sys2Proof.Machine

/-! The Modbus client (41_modbus_client.md): the validation of a response, READEXACT over any cutting into reads, and
the operations that do an exchange. -/

namespace Sys2Proof.Machine

/-! ## Validation -/

/-- A frame whose last two bytes are not the CRC of the bytes before them fails the first check (R103). -/
theorem validate_of_crc_ne {body : List Byte} {cl ch : Byte} (h : crc16 body ≠ le16 cl ch) (devAddr fn : Byte) :
    validate devAddr (body ++ [cl, ch]) (body.length + 2) fn = some .crcMismatch := by
  unfold validate
  rw [if_pos]
  simpa [List.getD_eq_getElem?_getD] using h

/-- A sealed frame with the exception bit set stops at the second check, which comes before the address (R103). -/
theorem validate_of_exception {body : List Byte} {f code : Byte} (hf : f.getLsbD 7 = true) (h1 : body[1]? = some f)
    (h2 : body[2]? = some code) (devAddr fn : Byte) :
    validate devAddr (withCrc body) (body.length + 2) fn = some (.modbusException code) := by
  have hbyte : ∀ {k b}, body[k]? = some b → (withCrc body).getD k 0 = b := fun {k b} hk => by
    have hlt : k < body.length := (List.getElem?_eq_some_iff.mp hk).1
    rw [List.getD_eq_getElem?_getD, withCrc, List.getElem?_append_left hlt, hk, Option.getD_some]
  unfold validate
  rw [if_neg (not_not.mpr (withCrc_checks body rfl)), hbyte h1, hbyte h2, if_pos ((excBit_iff f).mpr hf)]

/-- Changing one byte of a message changes its CRC: the byte step loses neither the byte nor the accumulator. -/
theorem crc16_set_ne {l : List Byte} {k : Nat} {b : Byte} (hk : k < l.length) (hne : l[k]? ≠ some b) :
    crc16 (l.set k b) ≠ crc16 l := by
  have hsplit : l = l.take k ++ l[k] :: l.drop (k + 1) := by
    rw [List.getElem_cons_drop, List.take_append_drop]
  intro heq
  rw [List.set_eq_take_append_cons_drop, if_pos hk, crc16_append] at heq
  rw [congrArg crc16 hsplit, crc16_append] at heq
  have hbyte : b = l[k] := crcStep_injective_byte (foldl_crcStep_injective (l.drop (k + 1)) heq)
  exact hne (by rw [hbyte, List.getElem?_eq_getElem hk])

/-- Settles O18: a frame that passes the CRC check has the CRC 0, which the good frame has and the changed one has
not. -/
theorem corruptedResponseIsCrcMismatch : Obligations.CorruptedResponseIsCrcMismatch := by
  intro devAddr body fn k b hk hne
  obtain ⟨body', tail, hframe, hbody', htail⟩ : ∃ body' tail, (withCrc body).set k b = body' ++ tail ∧
      body'.length = body.length ∧ tail.length = 2 :=
    ⟨_, _, (List.take_append_drop body.length _).symm, by simp [withCrc], by simp [withCrc]⟩
  obtain ⟨cl, ch, rfl⟩ := List.length_eq_two.mp htail
  have hcrc : crc16 body' ≠ le16 cl ch := fun hcheck => by
    have hzero : crc16 (body' ++ [cl, ch]) = 0 := by
      simpa [hcheck] using crcOfSealedMessageIsZero body'
    refine crc16_set_ne hk hne ?_
    rw [hframe, hzero]
    exact (crcOfSealedMessageIsZero body).symm
  have hlen : (withCrc body).length = body'.length + 2 := by simp [withCrc, hbody']
  rw [hframe, hlen]
  exact validate_of_crc_ne hcrc devAddr fn

/-- The chain of R103 over the bytes it reads. -/
theorem validate_eq_of_bytes {rx : List Byte} {n : Nat} {b0 b1 b2 cl ch : Byte} (h0 : rx[0]? = some b0)
    (h1 : rx[1]? = some b1) (h2 : rx[2]? = some b2) (hl : rx[n - 2]? = some cl) (hh : rx[n - 1]? = some ch)
    (devAddr fn : Byte) :
    validate devAddr rx n fn =
      if crc16 (rx.take (n - 2)) ≠ le16 cl ch then some .crcMismatch
      else if b1.getLsbD 7 = true then some (.modbusException b2)
      else if b0 ≠ devAddr then some .addressMismatch
      else if b1 ≠ fn then some .functionMismatch
      else if fn = 0x03 ∧ b2 ≠ 0x02 then some .invalidLength
      else none := by
  unfold validate
  simp only [List.getD_eq_getElem?_getD, h0, h1, h2, hl, hh, Option.getD_some, excBit_iff]
  rfl

/-- Settles O21: each clause is one branch of the chain. -/
theorem validationReportsTheFirstFailure : Obligations.ValidationReportsTheFirstFailure := by
  intro devAddr rx n fn b0 b1 b2 cl ch _ _ h0 h1 h2 hl hh
  rw [validate_eq_of_bytes h0 h1 h2 hl hh]
  refine ⟨fun hcrc => if_pos hcrc, fun hcrc => ?_⟩
  rw [if_neg (not_not.mpr hcrc)]
  refine ⟨fun hexc => if_pos hexc, fun hexc => ?_⟩
  rw [if_neg (Bool.eq_false_iff.mp hexc)]
  refine ⟨fun haddr => if_pos haddr, fun haddr => ?_⟩
  rw [if_neg (not_not.mpr haddr)]
  refine ⟨fun hfn => if_pos hfn, fun hfn => ?_⟩
  rw [if_neg (not_not.mpr hfn)]
  exact ⟨fun hcount => if_pos hcount, fun hcount => if_neg hcount⟩

/-! ## READEXACT -/

/-- A chunk longer than what is missing is cut: the loop is done, and the rest of the chunk stays first (R208). -/
theorem readLoop_overlong {fuel missing : Nat} {rx c : List Byte} {q : List RxEvent} (hm : missing ≠ 0)
    (hgt : missing < c.length) :
    readLoop (fuel + 1) missing rx (.data c :: q) = (.ok (rx ++ c.take missing), .data (c.drop missing) :: q) := by
  have hlen : (c.take missing).length = missing := List.length_take_of_le hgt.le
  rw [readLoop.eq_def, if_neg hm, serRead_data_gt q hgt]
  cases htake : c.take missing with
  | nil => exact absurd (by rw [← hlen, htake]; rfl) hm
  | cons b bytes =>
    rw [htake] at hlen
    simp only [hlen, Nat.sub_self, readLoop_done]

/-- READEXACT takes every chunk of a queue that stays short of its count, and still has fuel for what is missing. -/
theorem readExact_short_chunks {n : Nat} {chunks : List (List Byte)} (hc : ∀ c ∈ chunks, c ≠ [])
    (hlt : chunks.flatten.length < n) (q : List RxEvent) :
    ∃ fuel, readExact n (chunks.map RxEvent.data ++ q) =
      readLoop (fuel + 1) (n - chunks.flatten.length) chunks.flatten q := by
  obtain ⟨fuel, hfuel, heq⟩ := readLoop_chunks chunks q hc n n [] le_rfl hlt.le
  obtain ⟨fuel, rfl⟩ : ∃ k, fuel = k + 1 := ⟨fuel - 1, by omega⟩
  exact ⟨fuel, heq⟩

/-- Settles O19: chunks up to the count are all taken; the one that goes past it is cut. -/
theorem readExactTakesAnyChunks : Obligations.ReadExactTakesAnyChunks := by
  intro chunks q hc
  constructor
  · obtain ⟨fuel, -, heq⟩ := readLoop_chunks chunks q hc _ _ [] le_rfl le_rfl
    rw [readExact, heq, Nat.sub_self, readLoop_done, List.nil_append]
  · intro n bytes hlt hover
    obtain ⟨fuel, heq⟩ := readExact_short_chunks hc hlt (.data bytes :: q)
    rw [heq, readLoop_overlong (by omega) (by omega)]

/-- READEXACT of the bytes that the transport supplies returns them and leaves what comes after. -/
theorem readExact_of_supplies {s : State} {rx : List Byte} {rest : List RxEvent} (h : supplies s rx rest) :
    readExact rx.length s.serialRx = (.ok rx, rest) := by
  obtain ⟨chunks, last, extra, q, hc, hlast, rfl, hq, rfl⟩ := h
  rw [hq]
  by_cases hextra : extra = []
  · have hall : ∀ c ∈ chunks ++ [last], c ≠ [] := by simpa [or_imp, forall_and] using ⟨hc, hlast⟩
    simpa [hextra] using (readExactTakesAnyChunks (chunks ++ [last]) q hall).1
  · have hpos : 0 < last.length := List.length_pos_iff.mpr hlast
    have hepos : 0 < extra.length := List.length_pos_iff.mpr hextra
    have hcut := (readExactTakesAnyChunks chunks q hc).2 (chunks.flatten ++ last).length (last ++ extra)
      (by rw [List.length_append]; omega) (by rw [List.length_append, List.length_append]; omega)
    rw [hcut, List.length_append, Nat.add_sub_cancel_left, List.take_left, List.drop_left, if_neg hextra]

/-! ## Exchanges that do not complete -/

/-- Settles O20: after the chunks the loop meets the stop with a byte still missing, and the exchange that reads it
ends in that error. -/
theorem readExactStopsShort : Obligations.ReadExactStopsShort := by
  intro n chunks q hc hlt
  have hstop (q' : List RxEvent) := readExact_short_chunks hc hlt q'
  have hmissing : n - chunks.flatten.length ≠ 0 := by omega
  have hsilence : readExact n (chunks.map RxEvent.data ++ .data [] :: q) = (.error .timeout, q) := by
    obtain ⟨fuel, heq⟩ := hstop (.data [] :: q)
    rw [heq, (readLoop_stop hmissing).2.1]
  have hfail : readExact n (chunks.map RxEvent.data ++ .fail :: q) = (.error .io, q) := by
    obtain ⟨fuel, heq⟩ := hstop (.fail :: q)
    rw [heq, (readLoop_stop hmissing).2.2]
  refine ⟨hsilence, ?_, hfail, fun i s tx hreq hok => ⟨fun hq => ?_, fun hq => ?_⟩⟩
  · obtain ⟨fuel, heq⟩ := hstop []
    rw [← List.append_nil (chunks.map RxEvent.data), heq, (readLoop_stop (q := []) hmissing).1]
  · have hex := exchange_of_ok hok tx (n := n) (by rw [hq]; exact (fallsShort_of_stop n _ q).1)
    rw [hq, hsilence] at hex
    exact exec_of_exchange_error hreq hex
  · have hex := exchange_of_ok hok tx (n := n) (by rw [hq]; exact (fallsShort_of_stop n _ q).2)
    rw [hq, hfail] at hex
    exact exec_of_exchange_error hreq hex

/-- Settles O31: the exchange of a failed write is `Io`, and the operation returns it. -/
theorem failedRequestWriteIsIo : Obligations.FailedRequestWriteIsIo := by
  intro i s tx n k hreq hfail
  exact exec_of_exchange_error hreq (exchange_of_fail hfail tx n)

/-! ## Exchanges that complete -/

/-- An exchange whose write is accepted and whose response the transport supplies in any reads. -/
theorem exchange_of_supplies {s : State} {rx : List Byte} {rest : List RxEvent} (hok : nextSerAnswer s = .ok)
    (hs : supplies s rx rest) (tx : List Byte) :
    exchange tx rx.length s = (.ok rx, { s.serAnswered with serialOut := s.serialOut ++ tx, serialRx := rest }) := by
  rw [exchange_of_ok hok tx (fallsShort_of_supplies hs), readExact_of_supplies hs]

section Completed

variable {s : State} {rx : List Byte} {rest : List RxEvent} (hok : nextSerAnswer s = .ok) (hs : supplies s rx rest)
include hok hs

/-- A register write answers what VALIDATE answers on the response (R105). -/
theorem modbusWrite_of_supplies (hlen : rx.length = 8) (reg val : Word) :
    modbusWrite reg val s = (validate s.devAddr rx 8 0x06, { s.serAnswered with
      serialOut := s.serialOut ++ writeRequest s.devAddr reg val, serialRx := rest }) := by
  have hex := exchange_of_supplies hok hs (sealFrame (writeRequestBody s.devAddr reg val))
  rw [hlen] at hex
  unfold modbusWrite
  rw [show Config.writeRspLen = 8 from rfl, hex]
  rfl

/-- A register read answers the error that VALIDATE answers on the response, else the value in its bytes 3 and 4
(R104). -/
theorem modbusRead_of_supplies (hlen : rx.length = 7) (reg : Word) :
    modbusRead reg s = ((validate s.devAddr rx 7 0x03).elim (.ok (be16 (rx.getD 3 0) (rx.getD 4 0))) .error,
      { s.serAnswered with serialOut := s.serialOut ++ readRequest s.devAddr reg, serialRx := rest }) := by
  have hex := exchange_of_supplies hok hs (sealFrame (readRequestBody s.devAddr reg))
  rw [hlen] at hex
  unfold modbusRead
  simp only [show Config.readRspLen = 7 from rfl, show Config.fnRead = 0x03 from rfl, hex]
  cases validate s.devAddr rx 7 0x03 <;> rfl

end Completed

/-- Settles O22: the operation is its register access, which answers what VALIDATE answers. -/
theorem responsesAreValidated : Obligations.ResponsesAreValidated := by
  intro i s rx rest hok hs
  constructor
  · intro reg hreg hlen
    rw [exec_of_readRegister hreg, modbusRead_of_supplies hok hs hlen reg]
    cases validate s.devAddr rx 7 0x03 <;> rfl
  · intro reg val hreg hlen
    have hwrite := modbusWrite_of_supplies hok hs hlen reg val
    obtain ⟨a, rfl, hexec⟩ | ⟨haddr, hexec⟩ := exec_of_writtenRegister hreg s
    · rw [hexec, hwrite]
      cases validate s.devAddr rx 8 0x06 <;> rfl
    · rw [hexec, hwrite, haddr]
      cases validate s.devAddr rx 8 0x06 <;> rfl

/-- Settles O23: a good response is valid, and its bytes 3 and 4 are the value. -/
theorem rdhrReturnsTheRegister : Obligations.RdhrReturnsTheRegister := by
  intro s reg v rest hok hs
  have hvalue : be16 ((readResponse s.devAddr v).getD 3 0) ((readResponse s.devAddr v).getD 4 0) = v := be16_hi_lo v
  have hexec := (responsesAreValidated (.rdhr reg) s _ rest hok hs).1 reg rfl rfl
  rwa [validate_readResponse, hvalue] at hexec

/-- Settles O25: a good response is valid whatever it echoes. -/
theorem wrsrReturnsOk : Obligations.WrsrReturnsOk := by
  intro s reg val reg' val' rest hok hs
  have hexec := (responsesAreValidated (.wrsr reg val) s _ rest hok hs).2 reg val rfl rfl
  rwa [validate_writeRequest] at hexec

/-! ## Exception frames (R110) -/

section RefusedResponse

variable {s : State} {rx : List Byte} {rest : List RxEvent} {k : ErrorKind} (hok : nextSerAnswer s = .ok)
  (hs : supplies s rx rest)
include hok hs

/-- RDHR of a response that VALIDATE refuses returns its error. -/
theorem exec_rdhr_of_invalid (hlen : rx.length = 7) (hv : validate s.devAddr rx 7 0x03 = some k) (reg : Word) :
    exec (.rdhr reg) s = .next { s.serAnswered with
      serialOut := s.serialOut ++ readRequest s.devAddr reg, serialRx := rest, results := s.results ++ [.err k] } := by
  have hexec := (responsesAreValidated (.rdhr reg) s rx rest hok hs).1 reg rfl hlen
  rwa [hv] at hexec

/-- WRSR of a response that VALIDATE refuses returns its error. -/
theorem exec_wrsr_of_invalid (hlen : rx.length = 8) (hv : validate s.devAddr rx 8 0x06 = some k) (reg val : Word) :
    exec (.wrsr reg val) s = .next { s.serAnswered with
      serialOut := s.serialOut ++ writeRequest s.devAddr reg val, serialRx := rest,
      results := s.results ++ [.err k] } := by
  have hexec := (responsesAreValidated (.wrsr reg val) s rx rest hok hs).2 reg val rfl hlen
  rwa [hv] at hexec

end RefusedResponse

/-- Settles O32: the five bytes alone stay short of the count; with more behind them the CRC is taken over a sealed
frame, whose own CRC is 0. -/
theorem shortExceptionFrameIsNotReported : Obligations.ShortExceptionFrameIsNotReported := by
  intro s reg val a f code x y z hok
  have hsealed : crc16 (exceptionResponse a f code) = 0 := crcOfSealedMessageIsZero _
  refine ⟨fun chunks q hc hq hframe => ?_, fun rest hs hne => ?_, fun rest hs hne => ?_⟩
  · have hlen : chunks.flatten.length = 5 := by rw [hframe]; rfl
    have htimeout {n : Nat} {i : Instr} {tx : List Byte} (hn : 5 < n) (hreq : requestOf i s = some (tx, n)) :=
      ((readExactStopsShort n chunks q hc (by omega)).2.2.2 i s tx hreq hok).1 hq
    exact ⟨htimeout (by omega) rfl, htimeout (by omega) rfl⟩
  · have hcrc : crc16 (exceptionResponse a f code) ≠ le16 y z := by rw [hsealed]; exact hne.symm
    exact exec_rdhr_of_invalid hok hs rfl (validate_of_crc_ne hcrc s.devAddr 0x03) reg
  · have hcrc : crc16 (exceptionResponse a f code ++ [x]) ≠ le16 y z := by
      rw [crc16_append, hsealed]
      exact hne.symm
    exact exec_wrsr_of_invalid hok hs rfl (validate_of_crc_ne hcrc s.devAddr 0x06) reg val

/-- Settles O33: a sealed frame of the full length stops VALIDATE at the exception bit. -/
theorem fullLengthExceptionIsReported : Obligations.FullLengthExceptionIsReported := by
  intro s reg val body f code rest hok hf h1 h2 hs
  have hlen : (withCrc body).length = body.length + 2 := by simp [withCrc]
  have hv (fn : Byte) := validate_of_exception hf h1 h2 s.devAddr fn
  refine ⟨fun hbody => ?_, fun hbody => ?_⟩ <;> rw [hbody] at hlen hv
  · exact exec_rdhr_of_invalid hok hs hlen (hv 0x03) reg
  · exact exec_wrsr_of_invalid hok hs hlen (hv 0x06) reg val

/-! ## The request frame read back (R106) -/

section Request

variable {s : State} (hok : nextSerAnswer s = .ok)
include hok

/-- The end of a read operation sends nothing: what went out is its request. -/
theorem finishRead_serialOut (reg : Word) :
    (finishRead (modbusRead reg s)).serialOut = s.serialOut ++ readRequest s.devAddr reg := by
  have hsent : (modbusRead reg s).2.serialOut = s.serialOut ++ readRequest s.devAddr reg := by
    rw [modbusRead_state]
    exact exchange_serialOut hok _ _
  rw [← hsent]
  obtain ⟨v, h⟩ | ⟨k, -, h⟩ := finishRead_spec (modbusRead reg s) <;> rw [h] <;> rfl

/-- The end of a write operation sends nothing: what went out is its request. -/
theorem finishWrite_serialOut (reg val : Word) :
    (finishWrite (modbusWrite reg val s)).serialOut = s.serialOut ++ writeRequest s.devAddr reg val := by
  have hsent : (modbusWrite reg val s).2.serialOut = s.serialOut ++ writeRequest s.devAddr reg val := by
    rw [modbusWrite_state]
    exact exchange_serialOut hok _ _
  rw [← hsent]
  obtain ⟨-, h⟩ | ⟨k, -, h⟩ := finishWrite_spec (modbusWrite reg val s) <;> rw [h] <;> rfl

end Request

/-- Settles O34: the frame that goes out is the request, and its fields are split high and low byte. -/
theorem requestFieldsSurviveEncoding : Obligations.RequestFieldsSurviveEncoding := by
  intro s reg val hok
  constructor
  · exact ⟨_, _, _, _, _, _, _, _, _, rfl, finishWrite_serialOut hok reg val, be16_hi_lo reg, be16_hi_lo val,
      (le16_lo_hi _).symm⟩
  · exact ⟨_, _, _, _, _, _, _, _, _, rfl, finishRead_serialOut hok reg, be16_hi_lo reg, be16_hi_lo 1,
      (le16_lo_hi _).symm⟩

end Sys2Proof.Machine

/-! The sensor facade (42_sensor_facade.md): the accessors as register accesses whose response is good, and the drain of
the boot text. -/

namespace Sys2Proof.Machine

/-! ## Accessors -/

section GoodResponses

variable {i : Instr} {s : State} {rest : List RxEvent} (hok : nextSerAnswer s = .ok)
include hok

/-- A read operation returns the value of a good response (R104, R108). -/
theorem exec_of_readResponse {reg v : Word} (hreg : readRegister i = some reg)
    (hs : supplies s (readResponse s.devAddr v) rest) :
    exec i s = .next { s.serAnswered with
      serialOut := s.serialOut ++ readRequest s.devAddr reg, serialRx := rest,
      results := s.results ++ [.okValue v] } := by
  rw [exec_of_readRegister hreg]
  exact rdhrReturnsTheRegister s reg v rest hok hs

/-- A write operation returns `Ok` after a good response, whatever it echoes, and the address written is DEVADDR then
(R107, R128). -/
theorem exec_of_writeResponse {reg val reg' val' : Word} (hreg : writtenRegister i = some (reg, val))
    (hs : supplies s (writeRequest s.devAddr reg' val') rest) :
    exec i s = .next { s.serAnswered with
      devAddr := addressWritten i s, serialOut := s.serialOut ++ writeRequest s.devAddr reg val, serialRx := rest,
      results := s.results ++ [.ok] } := by
  have hexec := (responsesAreValidated i s _ rest hok hs).2 reg val hreg rfl
  rwa [validate_writeRequest] at hexec

end GoodResponses

/-- Settles O24: each getter is the read of its register. -/
theorem gettersReturnTheirRegisters : Obligations.GettersReturnTheirRegisters := by
  intro i reg hi s v rest hok hs
  have hreg : readRegister i = some reg := by
    simp only [List.mem_cons, Prod.mk.injEq, List.not_mem_nil, or_false] at hi
    obtain ⟨rfl, rfl⟩ | ⟨rfl, rfl⟩ | ⟨rfl, rfl⟩ | ⟨rfl, rfl⟩ | ⟨rfl, rfl⟩ | ⟨rfl, rfl⟩ := hi <;> rfl
  exact exec_of_readResponse hok hreg hs

/-- Settles O26: both setters write whatever operand they have, and neither is SETADDR. -/
theorem settersWriteTheirRegisters : Obligations.SettersWriteTheirRegisters := by
  intro s val reg' val' rest hok hs
  exact ⟨exec_of_writeResponse hok (i := .setinst val) rfl hs, exec_of_writeResponse hok (i := .setrange val) rfl hs⟩

/-- A legal address is written to its register (R127, R128). -/
theorem writtenRegister_setaddr {a : Byte} (h : legalDeviceAddress a = true) :
    writtenRegister (.setaddr a) = some (0x03F4, a.setWidth 16) := if_pos h

/-- Settles O27: the request and the check of its response are for the old DEVADDR; the new one comes after `Ok`. -/
theorem setaddrMovesTheDeviceAddress : Obligations.SetaddrMovesTheDeviceAddress := by
  intro s a reg' val' rest hmin hmax hok hs
  have hlegal : legalDeviceAddress a = true := (legalDeviceAddress_iff a).mpr ⟨hmin, hmax⟩
  exact exec_of_writeResponse hok (writtenRegister_setaddr hlegal) hs

/-- An accepted rate is written to its register as its code (R130). -/
theorem writtenRegister_setbaud {baud : BitVec 32} (h : acceptedBaud baud = true) :
    writtenRegister (.setbaud baud) = some (0x03F6, baudCode baud) := if_pos h

/-- Settles O29: each of the nine rates is accepted, and its code is the rate divided by 100. -/
theorem setbaudWritesTheCode : Obligations.SetbaudWritesTheCode := by
  intro baud code hmem s reg' val' rest hok hs
  obtain ⟨haccepted, rfl⟩ : acceptedBaud baud = true ∧ baudCode baud = code := by
    simp only [List.mem_cons, Prod.mk.injEq, List.not_mem_nil, or_false] at hmem
    obtain ⟨rfl, rfl⟩ | ⟨rfl, rfl⟩ | ⟨rfl, rfl⟩ | ⟨rfl, rfl⟩ | ⟨rfl, rfl⟩ | ⟨rfl, rfl⟩ | ⟨rfl, rfl⟩ | ⟨rfl, rfl⟩ |
      ⟨rfl, rfl⟩ := hmem <;> decide
  exact exec_of_writeResponse hok (writtenRegister_setbaud haccepted) hs

/-! ## The drain -/

/-- What a drain logs of an unterminated last line (R133). -/
def unterminatedLine (line : List Byte) : List (List Byte) :=
  if line ≠ [] ∧ Config.drainEmitPartial = true then [line] else []

/-- Everything that a drain logs of a text at whose end it stops: the completed lines, then the unterminated one. -/
def loggedText (text : List Byte) : List (List Byte) :=
  (drainText [] text).1 ++ unterminatedLine (drainText [] text).2

/-- A zero-length read, a failure and the end of what is supplied end the loop; the first two are consumed. -/
theorem drainLoop_stop (fuel : Nat) (line : List Byte) (lines : List (List Byte)) (q : List RxEvent) :
    drainLoop (fuel + 1) line lines (.data [] :: q) = (lines ++ unterminatedLine line, q) ∧
    drainLoop (fuel + 1) line lines (.fail :: q) = (lines ++ unterminatedLine line, q) ∧
    drainLoop (fuel + 1) line lines [] = (lines ++ unterminatedLine line, []) := ⟨rfl, rfl, rfl⟩

section Chunks

variable {chunks : List (List Byte)} (hc : ∀ c ∈ chunks, c ≠ [])
include hc

/-- The drain of a text that a stop or the end of the supply follows logs the whole text and leaves what comes after. -/
theorem drainAll_text (q : List RxEvent) :
    drainAll (chunks.map .data ++ .data [] :: q) = (loggedText chunks.flatten, q) ∧
    drainAll (chunks.map .data ++ .fail :: q) = (loggedText chunks.flatten, q) ∧
    drainAll (chunks.map .data) = (loggedText chunks.flatten, []) := by
  refine ⟨?_, ?_, ?_⟩
  · rw [drainAll_chunks hc]
    exact (drainLoop_stop _ _ _ q).1
  · rw [drainAll_chunks hc]
    exact (drainLoop_stop _ _ _ q).2.1
  · rw [← List.append_nil (chunks.map RxEvent.data), drainAll_chunks hc]
    exact (drainLoop_stop _ _ _ []).2.2

/-- The drain of a text and any supply behind it logs the text's completed lines first and leaves a last part of the
supply. -/
theorem drainAll_text_and_supply (supply : List RxEvent) : ∃ more rest,
    drainAll (chunks.map .data ++ supply) = ((drainText [] chunks.flatten).1 ++ more, rest) ∧ rest <:+ supply := by
  obtain ⟨more, rest, hdrain⟩ := drainLoop_keeps_lines (waitingBytes supply + 1) (drainText [] chunks.flatten).2
    (drainText [] chunks.flatten).1 supply
  have hsuffix := drainLoop_suffix (waitingBytes supply + 1) (drainText [] chunks.flatten).2
    (drainText [] chunks.flatten).1 supply (Nat.lt_succ_self _)
  rw [hdrain] at hsuffix
  exact ⟨more, rest, by rw [drainAll_chunks hc, hdrain], hsuffix⟩

end Chunks

section Drain

variable {s : State} {lines : List (List Byte)} {q : List RxEvent}

/-- DRAIN where something that waits ends it: nothing is drawn. -/
theorem exec_drain_of_stop (h : noStop s.serialRx = false) (hd : drainAll s.serialRx = (lines, q)) :
    exec .drain s = .next { s with
      serialRx := q, logOut := s.logOut ++ lines, results := s.results ++ [.nothing] } := by
  have htransport : drainTransport s = (s.setSerialRx q).logLines lines := by
    unfold drainTransport
    rw [h, supplyMore_false, hd]
  rw [exec, execDrain, htransport]
  rfl

/-- DRAIN where nothing that waits ends it: it goes on with a draw (R217). -/
theorem exec_drain_of_noStop (h : noStop s.serialRx = true)
    (hd : drainAll (s.serialRx ++ Config.serSupply s.serDraws) = (lines, q)) :
    exec .drain s = .next { s with
      serialRx := q, serDraws := s.serDraws + 1, logOut := s.logOut ++ lines,
      results := s.results ++ [.nothing] } := by
  have htransport : drainTransport s = ((s.supplyMore true).setSerialRx q).logLines lines := by
    unfold drainTransport
    rw [h, supplyMore_true, hd]
  rw [exec, execDrain, htransport, supplyMore_true]
  rfl

end Drain

/-- Settles O35: the drain of the waiting text, with the stop that waits behind it or with a draw. -/
theorem drainLogsTheText : Obligations.DrainLogsTheText := by
  intro s chunks q hc
  obtain ⟨hsilence, hfail, hend⟩ := drainAll_text hc q
  refine ⟨fun hq => ?_, fun hq => ?_, hend⟩
  · obtain ⟨hsilent, hfailing⟩ := noStop_of_stop (chunks.map RxEvent.data) q
    obtain hq | hq := hq
    · exact exec_drain_of_stop (by rw [hq, hsilent]) (by rw [hq, hsilence]; rfl)
    · exact exec_drain_of_stop (by rw [hq, hfailing]) (by rw [hq, hfail]; rfl)
  · obtain ⟨more, rest, hdrain, hsuffix⟩ := drainAll_text_and_supply hc (Config.serSupply s.serDraws)
    rw [← hq] at hdrain
    exact ⟨more, rest, hdrain, hsuffix, exec_drain_of_noStop (by rw [hq, noStop_chunks hc]) hdrain⟩

end Sys2Proof.Machine

/-! The framebuffer unit (43_framebuffer.md): what SETPIX and GETPIX do at a pixel, who writes a dirty bit (R146), and
the promise of the dirty bitmap about the ghost panel (R147), which a FLUSH keeps or establishes whatever the bus
answers. -/

namespace Sys2Proof.Machine

/-! ## Pixels -/

/-- The address of a pixel's byte (R42). -/
def pixelByte (x y : Word) : Nat := byteAddr (pixelIndex x) (pixelIndex y)

/-- A pixel's place in its byte (R42). -/
def pixelBit (x : Word) : Nat := bitIndex (pixelIndex x)

/-- The colour of a pixel of this framebuffer, none outside the grid (R142). -/
def pixelAt (m : Memory) (x y : Word) : Option Colour :=
  if inGrid x y then some (colourOf ((Memory.read m (pixelByte x y)).getLsbD (pixelBit x))) else none

theorem pixelByte_eq (x y : Word) : pixelByte x y = 50 * y.toInt.toNat + x.toInt.toNat / 8 := rfl

theorem pixelBit_eq (x : Word) : pixelBit x = x.toInt.toNat % 8 := rfl

theorem pixelBit_lt (x : Word) : pixelBit x < 8 := bitIndex_lt (pixelIndex x)

theorem pixelAt_of_inGrid (m : Memory) {x y : Word} (h : inGrid x y = true) :
    pixelAt m x y = some (colourOf ((Memory.read m (pixelByte x y)).getLsbD (pixelBit x))) := if_pos h

theorem pixelAt_of_not_inGrid (m : Memory) {x y : Word} (h : ¬ inGrid x y = true) : pixelAt m x y = none := if_neg h

theorem colourOf_decide_light (c : Colour) : colourOf (decide (c = .light)) = c := by cases c <;> rfl

/-- No two pixels of the grid share a bit (R42). -/
theorem pixel_injective {x y x' y' : Word} (h : inGrid x y = true) (h' : inGrid x' y' = true)
    (hbyte : pixelByte x' y' = pixelByte x y) (hbit : pixelBit x' = pixelBit x) : (x', y') = (x, y) := by
  obtain ⟨hx, hx400, hy, -⟩ := (inGrid_iff x y).mp h
  obtain ⟨hx', hx400', hy', -⟩ := (inGrid_iff x' y').mp h'
  rw [pixelByte_eq, pixelByte_eq] at hbyte
  rw [pixelBit_eq, pixelBit_eq] at hbit
  have hxx : x' = x := BitVec.eq_of_toInt_eq (by omega)
  have hyy : y' = y := BitVec.eq_of_toInt_eq (by omega)
  rw [hxx, hyy]

/-- A line other than the pixel's has no byte in common with it. -/
theorem lineByte_ne_pixelByte {x y : Word} (h : inGrid x y = true) {l k : Nat} (hl : l ≠ pixelIndex y) (hk : k < 50) :
    50 * l + k ≠ pixelByte x y := by
  obtain ⟨hx, hx400, hy, -⟩ := (inGrid_iff x y).mp h
  have hl : l ≠ y.toInt.toNat := hl
  rw [pixelByte_eq]
  omega

/-! ## GETPIX and SETPIX -/

/-- GETPIX returns the pixel and writes nothing (R142). -/
theorem exec_getpix (x y : Word) (s : State) :
    exec (.getpix x y) s = .next (s.finish (.pixel (pixelAt s.fb x y))) := by
  change execGetpix x y s = _
  unfold execGetpix
  split
  next h => rw [fbLoad_pixel s.fb h, pixelAt_of_inGrid s.fb h]; rfl
  next h => rw [pixelAt_of_not_inGrid s.fb h]

theorem exec_getpix_iff {x y : Word} {s : State} {r : Option Colour} :
    exec (.getpix x y) s = .next (s.finish (.pixel r)) ↔ pixelAt s.fb x y = r := by
  rw [exec_getpix]
  refine ⟨fun h => ?_, fun h => h ▸ rfl⟩
  simpa using congrArg State.results (Host.Outcome.next.inj h)

/-- What SETPIX makes of FB and DIRTY at a pixel of the grid (R141). -/
structure Painted (s : State) (x y : Word) (c : Colour) (m : Memory) (d : BitVec 240) : Prop where
  byte : Memory.read m (pixelByte x y) = paintBit (Memory.read s.fb (pixelByte x y)) (pixelBit x) c
  otherBytes : ∀ a, a ≠ pixelByte x y → Memory.read m a = Memory.read s.fb a
  marks : ∀ l, l < 240 → dirtyBit d l = (dirtyBit s.dirty l ||
    decide (l = pixelIndex y ∧ Memory.read m (pixelByte x y) ≠ Memory.read s.fb (pixelByte x y)))
  unchanged : Memory.read m (pixelByte x y) = Memory.read s.fb (pixelByte x y) → m = s.fb ∧ d = s.dirty

/-- SETPIX of a pixel of the grid writes FB and DIRTY only (R140, R141). -/
theorem exec_setpix_of_inGrid {x y : Word} (h : inGrid x y = true) (c : Colour) (s : State) :
    ∃ m d, exec (.setpix x y c) s = .next { s with fb := m, dirty := d, results := s.results ++ [.nothing] } ∧
      Painted s x y c m d := by
  obtain ⟨m, d, hpaint, hbyte, hother, hmarks, hsame⟩ :=
    paint_spec s (pixelByte x y) (pixelIndex y) (paintBit (Memory.read s.fb (pixelByte x y)) (pixelBit x) c)
  refine ⟨m, d, ?_, hbyte, hother, by rwa [hbyte], by rwa [hbyte]⟩
  change execSetpix x y c s = _
  unfold execSetpix
  rw [if_pos h, fbLoad_pixel s.fb h]
  exact congrArg (fun t => Host.Outcome.next (t.finish .nothing)) hpaint

/-- SETPIX outside the grid is a silent no-op (R141). -/
theorem exec_setpix_of_not_inGrid {x y : Word} (h : ¬ inGrid x y = true) (c : Colour) (s : State) :
    exec (.setpix x y c) s = .next (s.finish .nothing) := if_neg h

section Painted

variable {s : State} {x y : Word} {c : Colour} {m : Memory} {d : BitVec 240} (h : Painted s x y c m d)
include h

theorem Painted.bit_same : (Memory.read m (pixelByte x y)).getLsbD (pixelBit x) = decide (c = .light) := by
  rw [h.byte, getLsbD_paintBit _ _ (pixelBit_lt x) (pixelBit_lt x), if_pos rfl]

theorem Painted.bit_other {k : Nat} (hk : k < 8) (hne : k ≠ pixelBit x) :
    (Memory.read m (pixelByte x y)).getLsbD k = (Memory.read s.fb (pixelByte x y)).getLsbD k := by
  rw [h.byte, getLsbD_paintBit _ _ (pixelBit_lt x) hk, if_neg hne]

/-- A pixel that has the colour already stays, and no line is marked. -/
theorem Painted.eq_of_same_colour
    (hc : (Memory.read s.fb (pixelByte x y)).getLsbD (pixelBit x) = decide (c = .light)) : m = s.fb ∧ d = s.dirty :=
  h.unchanged (h.byte.trans ((paintBit_eq_self_iff _ (pixelBit_lt x) c).mpr hc))

theorem Painted.pixelAt_same (hgrid : inGrid x y = true) : pixelAt m x y = some c := by
  rw [pixelAt_of_inGrid m hgrid, h.bit_same, colourOf_decide_light]

/-- Every other coordinate reads as before: it has another byte, or another bit of the same one. -/
theorem Painted.pixelAt_other (hgrid : inGrid x y = true) {x' y' : Word} (hne : (x', y') ≠ (x, y)) :
    pixelAt m x' y' = pixelAt s.fb x' y' := by
  by_cases hgrid' : inGrid x' y' = true
  · rw [pixelAt_of_inGrid m hgrid', pixelAt_of_inGrid s.fb hgrid']
    by_cases hbyte : pixelByte x' y' = pixelByte x y
    · have hbit : pixelBit x' ≠ pixelBit x := fun hbit => hne (pixel_injective hgrid hgrid' hbyte hbit)
      rw [hbyte, h.bit_other (pixelBit_lt x') hbit]
    · rw [h.otherBytes _ hbyte]
  · rw [pixelAt_of_not_inGrid m hgrid', pixelAt_of_not_inGrid s.fb hgrid']

/-- A line that is not dirty afterwards was not dirty before, and its bytes are as they were. -/
theorem Painted.clean_line (hgrid : inGrid x y = true) {l : Nat} (hl : l < 240) (hclean : dirtyBit d l = false) :
    dirtyBit s.dirty l = false ∧ fbLine m l = fbLine s.fb l := by
  rw [h.marks l hl, Bool.or_eq_false_iff, decide_eq_false_iff_not] at hclean
  obtain ⟨hbefore, hunmarked⟩ := hclean
  refine ⟨hbefore, ?_⟩
  by_cases hline : l = pixelIndex y
  · have hsame := not_not.mp fun hchanged => hunmarked ⟨hline, hchanged⟩
    rw [(h.unchanged hsame).1]
  · exact fbLine_congr fun k hk => h.otherBytes _ (lineByte_ne_pixelByte hgrid hline hk)

end Painted

/-- Settles O36: the painted byte bit by bit, every other byte as the write leaves it. -/
theorem setpixPaintsOnePixel : Obligations.SetpixPaintsOnePixel := by
  intro s x y c hx hx400 hy hy240
  obtain ⟨m, d, hexec, hpainted⟩ := exec_setpix_of_inGrid ((inGrid_iff x y).mpr ⟨hx, hx400, hy, hy240⟩) c s
  exact ⟨m, d, hexec, hpainted.bit_same, fun _ => hpainted.bit_other, hpainted.otherBytes, hpainted.marks⟩

/-- Settles O37: a byte painted with the colour it has is the same byte; outside the grid there is no access. -/
theorem setpixWithNothingToPaintChangesNothing : Obligations.SetpixWithNothingToPaintChangesNothing := by
  intro s x y c
  refine ⟨fun hx hx400 hy hy240 hcolour => ?_, fun hout => exec_setpix_of_not_inGrid (not_inGrid hout) c s⟩
  obtain ⟨m, d, hexec, hpainted⟩ := exec_setpix_of_inGrid ((inGrid_iff x y).mpr ⟨hx, hx400, hy, hy240⟩) c s
  obtain ⟨rfl, rfl⟩ := hpainted.eq_of_same_colour hcolour
  exact hexec

/-- Settles O38: GETPIX returns the pixel, which is none outside the grid. -/
theorem getpixReadsThePixel : Obligations.GetpixReadsThePixel := by
  intro s x y
  refine ⟨fun hx hx400 hy hy240 => ?_, fun hout => ?_⟩
  · exact exec_getpix_iff.mpr (pixelAt_of_inGrid s.fb ((inGrid_iff x y).mpr ⟨hx, hx400, hy, hy240⟩))
  · exact exec_getpix_iff.mpr (pixelAt_of_not_inGrid s.fb (not_inGrid hout))

/-- Settles O39: the painted pixel has the colour, and no other pixel shares its bit. -/
theorem getpixAfterSetpix : Obligations.GetpixAfterSetpix := by
  intro s t x y c hx hx400 hy hy240 ht
  have hgrid := (inGrid_iff x y).mpr ⟨hx, hx400, hy, hy240⟩
  obtain ⟨m, d, hexec, hpainted⟩ := exec_setpix_of_inGrid hgrid c s
  have hfb : t.fb = m := by rw [← Host.Outcome.next.inj (hexec.symm.trans ht)]
  refine ⟨exec_getpix_iff.mpr ?_, fun x' y' hne r hr => exec_getpix_iff.mpr ?_⟩
  · rw [hfb, hpainted.pixelAt_same hgrid]
  · rw [hfb, hpainted.pixelAt_other hgrid hne, exec_getpix_iff.mp hr]

/-! ## CLEARTO, MARKALL and SIZE -/

theorem fillByte_eq (c : Colour) : fillByte c = if c = .light then 0xFF else 0x00 := by cases c <;> rfl

/-- CLEARTO writes FB, DIRTY where asked, and nothing else (R144). -/
theorem exec_clearto (c : Colour) (mark : Bool) (s : State) : exec (.clearto c mark) s = .next { s with
    fb := Memory.fill (fillByte c), dirty := if mark then allDirty else s.dirty,
    results := s.results ++ [.nothing] } := rfl

theorem exec_markall (s : State) :
    exec .markall s = .next { s with dirty := allDirty, results := s.results ++ [.nothing] } := rfl

/-- Settles O40: the fill is a canonical memory that reads the fill byte everywhere. -/
theorem cleartoFillsTheBuffer : Obligations.CleartoFillsTheBuffer := fun s c mark =>
  ⟨Memory.fill (fillByte c), exec_clearto c mark s, Memory.wf_fill _,
    fun _ ha => (Memory.read_fill _ ha).trans (fillByte_eq c)⟩

/-- Settles O41: the bitmap that MARKALL writes has every bit. -/
theorem markallMarksEveryLine : Obligations.MarkallMarksEveryLine := fun s =>
  ⟨allDirty, exec_markall s, fun _ => dirtyBit_allDirty⟩

/-- Settles O42: the word is SIZE's selector, and its result is a constant. -/
theorem sizeIsConstant : Obligations.SizeIsConstant := ⟨rfl, fun _ => rfl⟩

/-! ## What a transaction leaves of FB, DIRTY and the panel -/

section Transactions

variable (s : State) (bytes : List Byte) (p : Bool) (recs : List LineRecord)

@[simp] theorem transact_fb : (transact bytes s).2.fb = s.fb := by
  obtain ⟨r, scs, draws, events, h, -⟩ := transact_spec bytes s
  simp [h]

@[simp] theorem transact_dirty : (transact bytes s).2.dirty = s.dirty := by
  obtain ⟨r, scs, draws, events, h, -⟩ := transact_spec bytes s
  simp [h]

@[simp] theorem transact_panel : (transact bytes s).2.panel = s.panel := by
  obtain ⟨r, scs, draws, events, h, -⟩ := transact_spec bytes s
  simp [h]

@[simp] theorem toggleTransaction_fb : (toggleTransaction p s).2.fb = s.fb := transact_fb s (toggleStream p)

@[simp] theorem toggleTransaction_dirty : (toggleTransaction p s).2.dirty = s.dirty := transact_dirty s (toggleStream p)

@[simp] theorem toggleTransaction_panel : (toggleTransaction p s).2.panel = s.panel := transact_panel s (toggleStream p)

@[simp] theorem clearTransaction_dirty : (clearTransaction p s).2.dirty = s.dirty := by
  obtain ⟨pan, h⟩ := clearTransaction_state p s
  simp [h]

@[simp] theorem writeTransaction_dirty : (writeTransaction p recs s).2.dirty = s.dirty :=
  (writeTransaction_p_dirty p recs s).2

end Transactions

section Ends

variable (r : Option BusError × State)

@[simp] theorem finishBus_dirty : (finishBus r).dirty = r.2.dirty := by obtain ⟨_ | e, t⟩ := r <;> rfl

@[simp] theorem commitToggle_fb : (commitToggle r).fb = r.2.fb := by obtain ⟨_ | e, t⟩ := r <;> rfl

@[simp] theorem commitToggle_dirty : (commitToggle r).dirty = r.2.dirty := by obtain ⟨_ | e, t⟩ := r <;> rfl

@[simp] theorem commitToggle_panel : (commitToggle r).panel = r.2.panel := by obtain ⟨_ | e, t⟩ := r <;> rfl

/-- A transaction that commits clears the whole bitmap and returns `Ok`; one that failed leaves it (R163, R165). -/
theorem commitClean_dirty_spec :
    (commitClean r).dirty = r.2.dirty ∨
      (commitClean r).results = r.2.results ++ [.ok] ∧ (commitClean r).dirty = noneDirty := by
  obtain ⟨_ | e, t⟩ := r
  · exact .inr ⟨rfl, rfl⟩
  · exact .inl rfl

end Ends

/-! ## Who writes a dirty bit (R146) -/

/-- What an instruction that took `s` to `t` did to the dirty bitmap. -/
inductive DirtyWrite (i : Instr) (s t : State) : Prop where
  | kept (same : t.dirty = s.dirty)
  | painted (x y : Word) (c : Colour) (op : i = .setpix x y c) (hy : 0 ≤ y.toInt) (changed : t.fb ≠ s.fb)
      (marks : ∀ l, l < 240 → dirtyBit t.dirty l = (dirtyBit s.dirty l || decide (l = pixelIndex y)))
  | marked (op : (∃ c, i = .clearto c true) ∨ i = .markall) (all : t.dirty = allDirty)
  | cleared (op : i = .hwclear ∨ i = .flush) (ok : t.results = s.results ++ [.ok]) (clean : t.dirty = noneDirty)

section DirtyWriters

variable {s t : State}

theorem setpix_dirtyWrite {x y : Word} {c : Colour} (h : exec (.setpix x y c) s = .next t) :
    DirtyWrite (.setpix x y c) s t := by
  by_cases hgrid : inGrid x y = true
  · obtain ⟨m, d, hexec, hpainted⟩ := exec_setpix_of_inGrid hgrid c s
    obtain rfl := Host.Outcome.next.inj (hexec.symm.trans h)
    by_cases hsame : Memory.read m (pixelByte x y) = Memory.read s.fb (pixelByte x y)
    · exact .kept (hpainted.unchanged hsame).2
    · obtain ⟨-, -, hy, -⟩ := (inGrid_iff x y).mp hgrid
      refine .painted x y c rfl hy (fun hfb => hsame (congrArg (Memory.read · _) hfb)) fun l hl => ?_
      simpa [hsame] using hpainted.marks l hl
  · obtain rfl := Host.Outcome.next.inj ((exec_setpix_of_not_inGrid hgrid c s).symm.trans h)
    exact .kept rfl

/-- HWCLEAR, and a FLUSH that writes lines, end in a commit. -/
theorem commitClean_dirtyWrite {i : Instr} {r : Option BusError × State} (hi : i = .hwclear ∨ i = .flush)
    (hdirty : r.2.dirty = s.dirty) (hresults : r.2.results = s.results) : DirtyWrite i s (commitClean r) := by
  obtain hkept | ⟨hok, hnone⟩ := commitClean_dirty_spec r
  · exact .kept (hkept.trans hdirty)
  · exact .cleared hi (by rw [hok, hresults]) hnone

theorem exec_flush_of_clean (h : s.dirty = noneDirty) :
    exec .flush s = .next (commitToggle (toggleTransaction s.p s)) :=
  congrArg Host.Outcome.next (if_pos h)

theorem exec_flush_of_dirty (h : s.dirty ≠ noneDirty) :
    exec .flush s = .next (commitClean (writeTransaction s.p ((dirtyLines s.dirty).map (fbRecord s.fb)) s)) :=
  congrArg Host.Outcome.next (if_neg h)

theorem flush_dirtyWrite (h : exec .flush s = .next t) : DirtyWrite .flush s t := by
  by_cases hclean : s.dirty = noneDirty
  · rw [exec_flush_of_clean hclean] at h
    rw [← Host.Outcome.next.inj h]
    exact .kept (by simp)
  · rw [exec_flush_of_dirty hclean] at h
    rw [← Host.Outcome.next.inj h]
    exact commitClean_dirtyWrite (.inr rfl) (by simp) (by simp)

theorem clearto_dirtyWrite {c : Colour} {mark : Bool} (h : exec (.clearto c mark) s = .next t) :
    DirtyWrite (.clearto c mark) s t := by
  rw [← Host.Outcome.next.inj h]
  cases mark with
  | false => exact .kept rfl
  | true => exact .marked (.inl ⟨c, rfl⟩) rfl

theorem dwrLine_dirty {line : Byte} {pixels : List Byte} (h : exec (.dwrLine line pixels) s = .next t) :
    t.dirty = s.dirty := by
  change execDwrLine line pixels s = _ at h
  unfold execDwrLine at h
  split at h
  · cases h
  · rw [← Host.Outcome.next.inj h, State.setOpenWrite_dirty]

theorem dwrTrailer_dirty (h : exec .dwrTrailer s = .next t) : t.dirty = s.dirty := by
  change execDwrTrailer s = _ at h
  unfold execDwrTrailer at h
  split at h
  · cases h
  · split at h
    · cases h
    · rw [← Host.Outcome.next.inj h, finishBus_dirty, writeTransaction_dirty, State.setOpenWrite_dirty]

/-- Every write to the dirty bitmap is one that R146 lists. -/
theorem exec_dirtyWrite {i : Instr} (h : exec i s = .next t) : DirtyWrite i s t := by
  cases hi : isSensorInstr i with
  | true =>
    obtain ⟨-, -, -, hdirty, -⟩ := sensorInstructionLeavesTheDisplayDriver i s t hi h
    exact .kept hdirty
  | false =>
    cases i with
    | dcl p | dtg p => exact .kept (by rw [← Host.Outcome.next.inj h]; simp)
    | dwrHeader | size => exact .kept (by rw [← Host.Outcome.next.inj h]; rfl)
    | dwrLine => exact .kept (dwrLine_dirty h)
    | dwrTrailer => exact .kept (dwrTrailer_dirty h)
    | setpix => exact setpix_dirtyWrite h
    | getpix x y =>
      rw [exec_getpix] at h
      exact .kept (by rw [← Host.Outcome.next.inj h]; rfl)
    | clearto => exact clearto_dirtyWrite h
    | markall => exact .marked (.inr rfl) (by rw [← Host.Outcome.next.inj h]; rfl)
    | hwclear =>
      rw [← Host.Outcome.next.inj h]
      exact commitClean_dirtyWrite (.inl rfl) (by simp) (by simp)
    | toggle => exact .kept (by rw [← Host.Outcome.next.inj h]; simp)
    | flush => exact flush_dirtyWrite h
    | _ => cases hi

end DirtyWriters

/-- Settles O43: of the listed writes, those that can set this bit and those that can clear it. -/
theorem dirtyBitWriters : Obligations.DirtyBitWriters := by
  intro i s t l hl hexec
  cases exec_dirtyWrite hexec with
  | kept same =>
    rw [same]
    exact ⟨fun h0 h1 => by simp [h0] at h1, fun h1 h0 => by simp [h1] at h0⟩
  | painted x y c op hy changed marks =>
    rw [marks l hl]
    refine ⟨fun h0 h1 => .inl ⟨x, y, c, op, ?_, changed⟩, fun h1 h0 => by simp [h1] at h0⟩
    have hline : l = pixelIndex y := by simpa [h0] using h1
    rw [hline]
    exact (Int.toNat_of_nonneg hy).symm
  | marked op all => exact ⟨fun _ _ => .inr op, fun _ h0 => by simp [all, hl] at h0⟩
  | cleared op ok clean => exact ⟨fun _ h1 => by simp [clean] at h1, fun _ _ => ⟨op, ok, clean⟩⟩

/-! ## The three display operations and the ghost panel (R34, D30) -/

/-- The lines that a partial write of the dirty lines sets on the panel. -/
theorem panelLine_of_dirtyRecords (f : LineRecord → Option (List Byte)) (m : Memory) (d : BitVec 240) (pan : Panel)
    {y : Nat} (hy : y < 240) :
    panelLine (panelSet pan (((dirtyLines d).map (fbRecord m)).map fun r => (bufferLine r.1, f r))) y =
      if dirtyBit d y then f (fbRecord m y) else panelLine pan y := by
  rw [map_fbRecord_lines m f fun z hz => (mem_dirtyLines.mp hz).1,
    panelLine_panelSet (fun z => f (fbRecord m z)) _ _ hy]
  simp only [mem_dirtyLines, hy, true_and]

section Flush

variable {s t : State} (hexec : exec .flush s = .next t)
include hexec

/-- A FLUSH that succeeds leaves no line dirty, and the lines that were dirty are on the panel (R163). -/
theorem flush_of_ok (hok : nextBusAnswer s = .ok) : t.fb = s.fb ∧ t.dirty = noneDirty ∧ ∀ y, y < 240 →
    panelLine t.panel y = if dirtyBit s.dirty y then some (fbLine s.fb y) else panelLine s.panel y := by
  by_cases hclean : s.dirty = noneDirty
  · rw [exec_flush_of_clean hclean] at hexec
    rw [← Host.Outcome.next.inj hexec]
    simp [hclean]
  · rw [exec_flush_of_dirty hclean, writeTransaction_of_ok hok] at hexec
    rw [← Host.Outcome.next.inj hexec]
    exact ⟨rfl, rfl, fun y hy => panelLine_of_dirtyRecords (fun r => some r.2) s.fb s.dirty s.panel hy⟩

/-- A FLUSH that fails leaves DIRTY, and no dirty line is known on the panel (R165). -/
theorem flush_of_fail {e : BusError} {n : Nat} (hfail : nextBusAnswer s = .fail e n) :
    t.fb = s.fb ∧ t.dirty = s.dirty ∧ ∀ y, y < 240 →
      panelLine t.panel y = if dirtyBit s.dirty y then none else panelLine s.panel y := by
  by_cases hclean : s.dirty = noneDirty
  · rw [exec_flush_of_clean hclean] at hexec
    rw [← Host.Outcome.next.inj hexec]
    simp [hclean]
  · obtain ⟨released, hwrite⟩ := writeTransaction_of_fail hfail s.p ((dirtyLines s.dirty).map (fbRecord s.fb))
    rw [exec_flush_of_dirty hclean, hwrite] at hexec
    rw [← Host.Outcome.next.inj hexec]
    exact ⟨rfl, rfl, fun y hy => panelLine_of_dirtyRecords (fun _ => none) s.fb s.dirty s.panel hy⟩

end Flush

/-- A hardware clear that succeeds leaves no line dirty and the cleared image on the panel (R161, D30). -/
theorem exec_hwclear_of_ok {s : State} (hok : nextBusAnswer s = .ok) :
    exec .hwclear s = .next { s.busAnswered with
      dirty := noneDirty, p := !s.p, scs := false, panel := panelAll (some clearedLine),
      busOut := s.busOut ++ bracketed s (clearStream s.p), results := s.results ++ [.ok] } := by
  change Host.Outcome.next (commitClean (clearTransaction s.p s)) = _
  rw [clearTransaction_of_ok hok]
  rfl

/-! ## The promise of the dirty bitmap (R147) -/

section Promise

variable {s t : State}

/-- Lines that are clean afterwards were clean before and are the same in FB and on the panel. -/
theorem promise_of_clean_lines (h : PanelPromise s) (hclean : ∀ y, y < 240 → dirtyBit t.dirty y = false →
    dirtyBit s.dirty y = false ∧ fbLine t.fb y = fbLine s.fb y ∧ panelLine t.panel y = panelLine s.panel y) :
    PanelPromise t := by
  intro y hy hyt
  obtain ⟨hys, hline, hpanel⟩ := hclean y hy hyt
  rw [hpanel, hline, h y hy hys]

/-- The promise reads FB, DIRTY and the panel, and nothing else. -/
theorem promise_congr (h : PanelPromise s) (hfb : t.fb = s.fb) (hdirty : t.dirty = s.dirty)
    (hpanel : t.panel = s.panel) : PanelPromise t :=
  promise_of_clean_lines h fun _ _ hclean => ⟨hdirty ▸ hclean, by rw [hfb], by rw [hpanel]⟩

theorem promise_of_allDirty (h : t.dirty = allDirty) : PanelPromise t := by
  intro y hy hclean
  simp [h, hy] at hclean

theorem setpix_promise (h : PanelPromise s) {x y : Word} {c : Colour} (hexec : exec (.setpix x y c) s = .next t) :
    PanelPromise t := by
  by_cases hgrid : inGrid x y = true
  · obtain ⟨m, d, hset, hpainted⟩ := exec_setpix_of_inGrid hgrid c s
    obtain rfl := Host.Outcome.next.inj (hset.symm.trans hexec)
    refine promise_of_clean_lines h fun l hl hclean => ?_
    obtain ⟨hbefore, hline⟩ := hpainted.clean_line hgrid hl hclean
    exact ⟨hbefore, hline, rfl⟩
  · obtain rfl := Host.Outcome.next.inj ((exec_setpix_of_not_inGrid hgrid c s).symm.trans hexec)
    exact promise_congr h rfl rfl rfl

/-- After a successful FLUSH the panel shows FB where every line was dirty, or known to be shown. -/
theorem panel_of_flush_ok (hok : nextBusAnswer s = .ok) (hexec : exec .flush s = .next t)
    (h : ∀ y, y < 240 → dirtyBit s.dirty y = false → panelLine s.panel y = some (fbLine s.fb y)) :
    ∀ y, y < 240 → panelLine t.panel y = some (fbLine t.fb y) := by
  intro y hy
  obtain ⟨hfb, -, hpanel⟩ := flush_of_ok hexec hok
  rw [hpanel y hy, hfb]
  split
  · rfl
  next hclean => exact h y hy (Bool.eq_false_iff.mpr hclean)

/-- FLUSH keeps the promise whatever the bus answers: what a failure makes unknown is dirty still. -/
theorem flush_promise (h : PanelPromise s) (hexec : exec .flush s = .next t) : PanelPromise t := by
  cases hanswer : nextBusAnswer s with
  | ok => exact fun y hy _ => panel_of_flush_ok hanswer hexec h y hy
  | fail e n =>
    obtain ⟨hfb, hdirty, hpanel⟩ := flush_of_fail hexec hanswer
    refine promise_of_clean_lines h fun y hy hclean => ?_
    rw [hdirty] at hclean
    exact ⟨hclean, by rw [hfb], by simp [hpanel y hy, hclean]⟩

end Promise

/-- Settles O52: an operation of the sensor writes none of FB, DIRTY and the panel; of the display's, SETPIX marks the
line it changes, the marking ones mark every line, and FLUSH sends what is dirty. -/
theorem dirtyPromiseIsKept : Obligations.DirtyPromiseIsKept := by
  intro i s t h hhost hclear hunmarked hexec
  cases hi : isSensorInstr i with
  | true =>
    obtain ⟨-, -, hfb, hdirty, hpanel, -⟩ := sensorInstructionLeavesTheDisplayDriver i s t hi hexec
    exact promise_congr h hfb hdirty hpanel
  | false =>
    cases i with
    | setpix => exact setpix_promise h hexec
    | getpix x y =>
      rw [exec_getpix] at hexec
      rw [← Host.Outcome.next.inj hexec]
      exact promise_congr h rfl rfl rfl
    | clearto c mark =>
      cases mark with
      | false => exact absurd rfl (hunmarked c)
      | true => exact promise_of_allDirty (by rw [← Host.Outcome.next.inj hexec]; rfl)
    | markall => exact promise_of_allDirty (by rw [← Host.Outcome.next.inj hexec]; rfl)
    | size =>
      rw [← Host.Outcome.next.inj hexec]
      exact promise_congr h rfl rfl rfl
    | hwclear => exact absurd rfl hclear
    | toggle =>
      rw [← Host.Outcome.next.inj hexec]
      exact promise_congr h (by simp) (by simp) (by simp)
    | flush => exact flush_promise h hexec
    | dcl | dtg | dwrHeader | dwrLine | dwrTrailer => cases hhost
    | _ => cases hi

/-- Settles O53: with every line dirty the promise holds of every line that is not. -/
theorem flushEstablishesThePanel : Obligations.FlushEstablishesThePanel := by
  intro s t hstart hok hexec
  have hpromise : PanelPromise s := hstart.elim (fun hall y hy hclean => by simp [hall y hy] at hclean) id
  exact ⟨flush_promise hpromise hexec, panel_of_flush_ok hok hexec hpromise⟩

/-- A clean buffer of one byte against the cleared panel: the promise is that the bytes are the same. -/
theorem promise_iff_of_uniform {u : State} {v : Byte} (hdirty : u.dirty = noneDirty)
    (hpanel : u.panel = panelAll (some clearedLine)) (hfb : u.fb = Memory.fill v) :
    PanelPromise u ↔ v = Config.panelClearByte := by
  have hline : ∀ y, y < 240 → (panelLine u.panel y = some (fbLine u.fb y) ↔ v = Config.panelClearByte) := by
    intro y hy
    rw [hpanel, hfb, panelLine_panelAll _ hy, fbLine_fill v hy, Option.some.injEq, eq_comm]
    exact List.replicate_right_inj (by decide)
  refine ⟨fun h => (hline 0 (by omega)).mp (h 0 (by omega) ?_), fun hv y hy _ => (hline y hy).mpr hv⟩
  rw [hdirty, dirtyBit_noneDirty]

/-- The two operations of the pair write different parts of the state, so their order does not matter. -/
theorem clearPair_state {s t u : State} {c : Colour} (hok : nextBusAnswer s = .ok)
    (h : exec .hwclear s = .next t ∧ exec (.clearto c false) t = .next u ∨
      exec (.clearto c false) s = .next t ∧ exec .hwclear t = .next u) :
    u.dirty = noneDirty ∧ u.panel = panelAll (some clearedLine) ∧ u.fb = Memory.fill (fillByte c) := by
  obtain ⟨ht, hu⟩ | ⟨ht, hu⟩ := h
  · rw [exec_hwclear_of_ok hok] at ht
    obtain rfl := Host.Outcome.next.inj ht
    obtain rfl := Host.Outcome.next.inj hu
    exact ⟨rfl, rfl, rfl⟩
  · have ht := Host.Outcome.next.inj ht
    have hanswer : nextBusAnswer t = nextBusAnswer s := by
      rw [← ht]
      exact nextBusAnswer_congr rfl rfl
    rw [exec_hwclear_of_ok (hanswer.trans hok)] at hu
    rw [← Host.Outcome.next.inj hu, ← ht]
    exact ⟨rfl, rfl, rfl⟩

/-- Settles O54: after the pair no line is dirty, the panel is cleared and FB filled, each line with one byte. -/
theorem clearPairMakesPanelAndBufferUniform : Obligations.ClearPairMakesPanelAndBufferUniform := by
  intro s t u c hok hpair
  obtain ⟨hdirty, hpanel, hfb⟩ := clearPair_state hok hpair
  rw [← fillByte_eq]
  refine ⟨hdirty, fun y hy => ⟨?_, ?_⟩, promise_iff_of_uniform hdirty hpanel hfb⟩
  · rw [hpanel, panelLine_panelAll _ hy]
    rfl
  · rw [hfb, fbLine_fill _ hy]

end Sys2Proof.Machine

/-! The display engine (44_display_engine.md): P flips exactly where a display operation commits (R166), what the three
operations do when the bus accepts their bytes (R161 to R164), and what a bus that fails leaves (R165). -/

namespace Sys2Proof.Machine

/-! ## Who writes P (R166) -/

section TransactionPolarity

variable (s : State) (p : Bool)

@[simp] theorem transact_p (bytes : List Byte) : (transact bytes s).2.p = s.p := by
  obtain ⟨r, scs, draws, events, h, -⟩ := transact_spec bytes s
  simp [h]

@[simp] theorem clearTransaction_p : (clearTransaction p s).2.p = s.p := by
  obtain ⟨pan, h⟩ := clearTransaction_state p s
  simp [h]

@[simp] theorem toggleTransaction_p : (toggleTransaction p s).2.p = s.p := transact_p s (toggleStream p)

@[simp] theorem writeTransaction_p (recs : List LineRecord) : (writeTransaction p recs s).2.p = s.p :=
  (writeTransaction_p_dirty p recs s).1

@[simp] theorem finishBus_p (r : Option BusError × State) : (finishBus r).p = r.2.p := by
  obtain ⟨_ | e, t⟩ := r <;> rfl

end TransactionPolarity

/-- From `s` to `t` P is inverted where an `Ok` was returned, and kept otherwise (R166). -/
def FlipsOnOk (s t : State) : Prop := t.p = if t.results = s.results ++ [.ok] then !s.p else s.p

section Commits

variable {s t : State}

theorem flipsOnOk_finish_ok (hp : t.p = !s.p) (hresults : t.results = s.results) : FlipsOnOk s (t.finish .ok) := by
  rw [FlipsOnOk, State.finish_p, State.finish_results, hresults, if_pos rfl, hp]

theorem flipsOnOk_raise (hp : t.p = s.p) (hresults : t.results = s.results) (k : ErrorKind) :
    FlipsOnOk s (t.raise k) := by
  rw [FlipsOnOk, State.raise_p, State.raise_results, hresults, if_neg (by simp), hp]

variable {r : Option BusError × State} (hp : r.2.p = s.p) (hresults : r.2.results = s.results)
include hp hresults

theorem commitClean_flipsOnOk : FlipsOnOk s (commitClean r) := by
  obtain ⟨_ | e, t⟩ := r
  · exact flipsOnOk_finish_ok (t := (t.setDirty noneDirty).togglePolarity) (congrArg flipPolarity hp) hresults
  · exact flipsOnOk_raise hp hresults (.bus e)

theorem commitToggle_flipsOnOk : FlipsOnOk s (commitToggle r) := by
  obtain ⟨_ | e, t⟩ := r
  · exact flipsOnOk_finish_ok (t := t.togglePolarity) (congrArg flipPolarity hp) hresults
  · exact flipsOnOk_raise hp hresults (.bus e)

end Commits

section PolarityWriters

variable {s t : State}

theorem isDisplayOperation_iff {i : Instr} : isDisplayOperation i = true ↔ i = .hwclear ∨ i = .toggle ∨ i = .flush :=
  decide_eq_true_iff

/-- Each display operation ends in a commit of its transaction. -/
theorem displayOperation_flipsOnOk {i : Instr} (hi : isDisplayOperation i = true) (h : exec i s = .next t) :
    FlipsOnOk s t := by
  obtain rfl | rfl | rfl := isDisplayOperation_iff.mp hi
  · rw [← Host.Outcome.next.inj h]
    exact commitClean_flipsOnOk (clearTransaction_p s s.p) (clearTransaction_results s s.p)
  · rw [← Host.Outcome.next.inj h]
    exact commitToggle_flipsOnOk (toggleTransaction_p s s.p) (toggleTransaction_results s s.p)
  · by_cases hclean : s.dirty = noneDirty
    · rw [exec_flush_of_clean hclean] at h
      rw [← Host.Outcome.next.inj h]
      exact commitToggle_flipsOnOk (toggleTransaction_p s s.p) (toggleTransaction_results s s.p)
    · rw [exec_flush_of_dirty hclean] at h
      rw [← Host.Outcome.next.inj h]
      exact commitClean_flipsOnOk (writeTransaction_p s s.p _) (writeTransaction_results s s.p _)

theorem setpix_p {x y : Word} {c : Colour} (h : exec (.setpix x y c) s = .next t) : t.p = s.p := by
  by_cases hgrid : inGrid x y = true
  · obtain ⟨m, d, hexec, -⟩ := exec_setpix_of_inGrid hgrid c s
    rw [← Host.Outcome.next.inj (hexec.symm.trans h)]
  · rw [← Host.Outcome.next.inj ((exec_setpix_of_not_inGrid hgrid c s).symm.trans h), State.finish_p]

theorem dwrLine_p {line : Byte} {pixels : List Byte} (h : exec (.dwrLine line pixels) s = .next t) : t.p = s.p := by
  change execDwrLine line pixels s = _ at h
  unfold execDwrLine at h
  split at h
  · cases h
  · rw [← Host.Outcome.next.inj h, State.setOpenWrite_p]

theorem dwrTrailer_p (h : exec .dwrTrailer s = .next t) : t.p = s.p := by
  change execDwrTrailer s = _ at h
  unfold execDwrTrailer at h
  split at h
  · cases h
  · split at h
    · cases h
    · rw [← Host.Outcome.next.inj h, finishBus_p, writeTransaction_p, State.setOpenWrite_p]

/-- No other instruction writes P, lone wire transactions among them: they end with no commit (R166, log 1). -/
theorem exec_p_of_not_displayOperation {i : Instr} (hi : isDisplayOperation i = false) (h : exec i s = .next t) :
    t.p = s.p := by
  cases hsensor : isSensorInstr i with
  | true => exact (sensorInstructionLeavesTheDisplayDriver i s t hsensor h).1
  | false =>
    cases i with
    | dcl | dtg =>
      rw [← Host.Outcome.next.inj h]
      simp
    | dwrHeader | clearto | markall | size =>
      rw [← Host.Outcome.next.inj h]
      rfl
    | dwrLine => exact dwrLine_p h
    | dwrTrailer => exact dwrTrailer_p h
    | setpix => exact setpix_p h
    | getpix x y =>
      rw [exec_getpix] at h
      rw [← Host.Outcome.next.inj h, State.finish_p]
    | hwclear | toggle | flush => cases hi
    | _ => cases hsensor

end PolarityWriters

/-- Settles O50: the display operations commit where they return `Ok`, and nothing else writes P. -/
theorem polarityFlipsExactlyOnSuccess : Obligations.PolarityFlipsExactlyOnSuccess := by
  intro i s t h
  cases hi : isDisplayOperation i with
  | true => simpa [FlipsOnOk] using displayOperation_flipsOnOk hi h
  | false => simpa using exec_p_of_not_displayOperation hi h

/-! ## P along a run (R166) -/

/-- One instruction of a run flips P exactly if it is a successful transaction; a refused one is neither. -/
theorem after_p (i : Instr) (s : State) : (after i s).p = (s.p ^^ isSuccessfulTransaction i s) := by
  have hstay (h : after i s = s) : (after i s).p = (s.p ^^ isSuccessfulTransaction i s) := by
    simp [isSuccessfulTransaction, h]
  cases h : exec i s with
  | next t =>
    rw [isSuccessfulTransaction, after_of_exec h, polarityFlipsExactlyOnSuccess i s t h]
    by_cases hok : isDisplayOperation i = true ∧ t.results = s.results ++ [.ok]
    · simp [hok]
    · have hnone : (isDisplayOperation i && decide (t.results = s.results ++ [.ok])) = false := by simpa using hok
      rw [if_neg hok, hnone, Bool.xor_false]
  | fault f => exact hstay (by rw [after, h])
  | refused r => exact hstay (by rw [after, h])

/-- A flip and then the flips of the rest of a run have the parity of their number. -/
theorem xor_decide_odd (b : Bool) (n : Nat) :
    (b ^^ decide (n % 2 = 1)) = decide (((if b then 1 else 0) + n) % 2 = 1) := by
  cases b with
  | false => simp
  | true =>
    rw [Bool.true_xor, ← decide_not, decide_eq_decide, if_pos rfl]
    omega

/-- By induction on the run, from every state. -/
theorem runInstrs_p (is : List Instr) (s : State) :
    (runInstrs is s).p = (s.p ^^ decide (successfulTransactions is s % 2 = 1)) := by
  induction is generalizing s with
  | nil => simp [runInstrs, successfulTransactions]
  | cons i is ih =>
    calc (runInstrs (i :: is) s).p
        = ((after i s).p ^^ decide (successfulTransactions is (after i s) % 2 = 1)) := ih (after i s)
      _ = (s.p ^^ (isSuccessfulTransaction i s ^^ decide (successfulTransactions is (after i s) % 2 = 1))) := by
          rw [after_p, Bool.xor_assoc]
      _ = (s.p ^^ decide (successfulTransactions (i :: is) s % 2 = 1)) := by
          rw [xor_decide_odd, successfulTransactions]

/-- Settles O51: the run lemma, and the fresh state's P is 0. -/
theorem polarityCountsSuccessfulTransactions : Obligations.PolarityCountsSuccessfulTransactions :=
  ⟨runInstrs_p, fun is => (runInstrs_p is State.reset).trans (Bool.false_xor _)⟩

/-! ## Operations that succeed (R161 to R163) -/

/-- Settles O44: the commit of a hardware clear, its two bytes as the spec writes them. -/
theorem hwclearClearsAndFlips : Obligations.HwclearClearsAndFlips := by
  intro s hok
  rw [exec_hwclear_of_ok hok, clearStream_eq]
  rfl

/-- Settles O45: the transaction of the two bytes, and a commit that leaves DIRTY. -/
theorem toggleFlips : Obligations.ToggleFlips := by
  intro s hok
  rw [← toggleStream_eq]
  exact congrArg (fun r => Host.Outcome.next (commitToggle r)) (transact_of_ok hok (toggleStream s.p))

/-- Settles O47: no dirty line is a zero bitmap, for which FLUSH is defined as TOGGLE. -/
theorem flushOfCleanBufferIsToggle : Obligations.FlushOfCleanBufferIsToggle := fun s hclean =>
  exec_flush_of_clean ((dirty_eq_zero_iff s.dirty).mpr hclean)

/-- Settles O46: one transaction of the dirty lines' stream and its commit. -/
theorem flushSendsTheDirtyLines : Obligations.FlushSendsTheDirtyLines := by
  intro s hok hdirty
  have hstream := writeStream_fbRecord s.p s.fb (dirtyLines s.dirty)
  refine ⟨panelSet s.panel (((dirtyLines s.dirty).map (fbRecord s.fb)).map fun r => (bufferLine r.1, some r.2)), ?_, ?_⟩
  · rw [exec_flush_of_dirty hdirty, writeTransaction_of_ok hok, hstream]
    rfl
  · exact fun y hy => panelLine_of_dirtyRecords (fun r => some r.2) s.fb s.dirty s.panel hy

/-! ## The layout of a partial write (R164) -/

section Layout

variable (m : Memory)

theorem dirtyRecord_address (y : Nat) : (dirtyRecord m y)[0]? = some (BitVec.ofNat 8 (y + 1)) := rfl

theorem dirtyRecord_pixels (y : Nat) {k : Nat} (hk : k < 50) :
    (dirtyRecord m y)[1 + k]? = some (Memory.read m (50 * y + k)) := by
  simp [dirtyRecord, Nat.add_comm 1 k, List.getElem?_append_left, hk]

theorem dirtyRecord_trailer (y : Nat) : (dirtyRecord m y)[51]? = some 0x00 := by
  simp [dirtyRecord]

/-- Records have one length, so the j-th begins at 52*j. -/
theorem getElem?_flatMap_dirtyRecord {ys : List Nat} {j y i : Nat} (hy : ys[j]? = some y) (hi : i < 52) :
    (ys.flatMap (dirtyRecord m))[52 * j + i]? = (dirtyRecord m y)[i]? := by
  induction ys generalizing j with
  | nil => cases hy
  | cons x ys ih =>
    rw [List.flatMap_cons]
    cases j with
    | zero =>
      obtain rfl : x = y := Option.some.inj hy
      rw [Nat.mul_zero, Nat.zero_add, List.getElem?_append_left (by rwa [length_dirtyRecord])]
    | succ j =>
      rw [List.getElem?_append_right (by rw [length_dirtyRecord]; omega), length_dirtyRecord,
        show 52 * (j + 1) + i - 52 = 52 * j + i by omega]
      exact ih hy

/-- A byte of the j-th record in the whole stream, which has the mode byte before the records. -/
theorem getElem?_stream_record (mode : Byte) {ys : List Nat} {j y i : Nat} (hy : ys[j]? = some y) (hi : i < 52) :
    ([mode] ++ ys.flatMap (dirtyRecord m) ++ [0x00])[1 + 52 * j + i]? = (dirtyRecord m y)[i]? := by
  have hj : j < ys.length := (List.getElem?_eq_some_iff.mp hy).1
  have hrecords := length_flatMap_dirtyRecord m ys
  rw [List.append_assoc, List.singleton_append, show 1 + 52 * j + i = 52 * j + i + 1 by omega,
    List.getElem?_cons_succ, List.getElem?_append_left (by omega)]
  exact getElem?_flatMap_dirtyRecord m hy hi

theorem length_stream (mode : Byte) (ys : List Nat) :
    ([mode] ++ ys.flatMap (dirtyRecord m) ++ [0x00]).length = 2 + 52 * ys.length := by
  simp only [List.length_append, length_flatMap_dirtyRecord, List.length_singleton]
  omega

theorem getElem?_stream_trailer (mode : Byte) (ys : List Nat) :
    ([mode] ++ ys.flatMap (dirtyRecord m) ++ [0x00])[1 + 52 * ys.length]? = some 0x00 := by
  have hbefore : ([mode] ++ ys.flatMap (dirtyRecord m)).length = 1 + 52 * ys.length := by
    rw [List.length_append, length_flatMap_dirtyRecord, List.length_singleton]
  rw [← hbefore, List.getElem?_concat_length]

end Layout

/-- Settles O48: the stream is the one of R163, read off record by record. -/
theorem writeStreamLayout : Obligations.WriteStreamLayout := by
  intro s ys hok hys hne
  have hdirty : s.dirty ≠ 0#240 := fun h => hne (hys.trans ((dirtyLines_eq_nil_iff s.dirty).mpr h))
  obtain ⟨pan, hexec, -⟩ := flushSendsTheDirtyLines s hok hdirty
  rw [← hys] at hexec
  have hascending : ys.Pairwise (· < ·) := by
    rw [hys]
    exact dirtyLines_ascending s.dirty
  refine ⟨_, [if s.p then 0x03 else 0x01] ++ ys.flatMap (dirtyRecord s.fb) ++ [0x00], hexec, rfl,
    length_stream s.fb _ ys, hascending, rfl, fun j y hy => ⟨?_, ?_, ?_⟩, getElem?_stream_trailer s.fb _ ys⟩
  · exact (getElem?_stream_record s.fb _ hy (i := 0) (by omega)).trans (dirtyRecord_address s.fb y)
  · intro k hk
    rw [show 2 + 52 * j + k = 1 + 52 * j + (1 + k) by omega, getElem?_stream_record s.fb _ hy (by omega)]
    exact dirtyRecord_pixels s.fb y hk
  · rw [show 52 * (j + 1) = 1 + 52 * j + 51 by omega, getElem?_stream_record s.fb _ hy (by omega)]
    exact dirtyRecord_trailer s.fb y

/-! ## Operations that fail (R165) -/

section Streams

variable {s : State}

theorem displayStream_hwclear : displayStream .hwclear s = clearStream s.p := (clearStream_eq s.p).symm

theorem displayStream_toggle : displayStream .toggle s = toggleStream s.p := (toggleStream_eq s.p).symm

theorem displayStream_flush_of_clean (h : s.dirty = noneDirty) : displayStream .flush s = toggleStream s.p := by
  have hclean := (dirty_eq_zero_iff s.dirty).mp h
  rw [toggleStream_eq, displayStream, if_neg nofun, if_pos (.inr ⟨rfl, hclean⟩)]

theorem displayStream_flush_of_dirty (h : s.dirty ≠ noneDirty) :
    displayStream .flush s = writeStream s.p ((dirtyLines s.dirty).map (fbRecord s.fb)) := by
  have hdirty : ¬ ∀ y, y < 240 → dirtyBit s.dirty y = false := fun hclean => h ((dirty_eq_zero_iff s.dirty).mpr hclean)
  rw [writeStream_fbRecord, displayStream, if_neg nofun, if_neg (by simpa using hdirty), if_pos rfl]
  rfl

/-- What a display operation sends depends on P, DIRTY and FB only. -/
theorem displayStream_congr {t : State} (i : Instr) (hp : t.p = s.p) (hdirty : t.dirty = s.dirty) (hfb : t.fb = s.fb) :
    displayStream i t = displayStream i s := by
  simp only [displayStream, hp, hdirty, hfb]

end Streams

/-- What a display operation leaves of its transaction of `bytes` that failed with `e` after n bytes: nothing is
committed, and the ghost panel is `pan` (R160, R165). -/
def failedTransaction (s : State) (e : BusError) (n : Nat) (bytes : List Byte) (released : Bool) (pan : Panel) :
    State :=
  { s.busAnswered with
    scs := !released, busDraws := s.busAnswered.busDraws + 1, panel := pan,
    busOut := s.busOut ++ (if s.scs then [] else [.select true]) ++ (bytes.take n).map .byte ++
      (if released then [.select false] else []),
    results := s.results ++ [.err (.bus e)] }

section Failures

variable {s : State} {e : BusError} {n : Nat} (hfail : nextBusAnswer s = .fail e n)
include hfail

theorem exec_hwclear_of_fail :
    ∃ released, exec .hwclear s = .next (failedTransaction s e n (clearStream s.p) released (panelAll none)) := by
  obtain ⟨released, h⟩ := clearTransaction_of_fail hfail s.p
  exact ⟨released, congrArg (fun r => Host.Outcome.next (commitClean r)) h⟩

theorem exec_toggle_of_fail :
    ∃ released, exec .toggle s = .next (failedTransaction s e n (toggleStream s.p) released s.panel) := by
  obtain ⟨released, h⟩ := transact_of_fail hfail (toggleStream s.p)
  exact ⟨released, congrArg (fun r => Host.Outcome.next (commitToggle r)) h⟩

theorem exec_flush_of_fail (hdirty : s.dirty ≠ noneDirty) :
    ∃ released, exec .flush s = .next (failedTransaction s e n
      (writeStream s.p ((dirtyLines s.dirty).map (fbRecord s.fb))) released
      (panelSet s.panel (((dirtyLines s.dirty).map (fbRecord s.fb)).map fun r => (bufferLine r.1, none)))) := by
  obtain ⟨released, h⟩ := writeTransaction_of_fail hfail s.p ((dirtyLines s.dirty).map (fbRecord s.fb))
  exact ⟨released, (exec_flush_of_dirty hdirty).trans (congrArg (fun r => Host.Outcome.next (commitClean r)) h)⟩

/-- Each display operation is a failed transaction of its own stream, and makes unknown what it may have sent. -/
theorem displayOperation_of_fail {i : Instr} (hi : isDisplayOperation i = true) :
    ∃ released pan, exec i s = .next (failedTransaction s e n (displayStream i s) released pan) ∧
      ∀ y, y < 240 → panelLine pan y =
        if i = .hwclear ∨ i = .flush ∧ dirtyBit s.dirty y = true then none else panelLine s.panel y := by
  obtain rfl | rfl | rfl := isDisplayOperation_iff.mp hi
  · obtain ⟨released, h⟩ := exec_hwclear_of_fail hfail
    exact ⟨released, _, displayStream_hwclear (s := s) ▸ h, fun y hy => by simp [hy]⟩
  · obtain ⟨released, h⟩ := exec_toggle_of_fail hfail
    exact ⟨released, _, displayStream_toggle (s := s) ▸ h, fun y hy => by simp⟩
  · by_cases hclean : s.dirty = noneDirty
    · obtain ⟨released, h⟩ := exec_toggle_of_fail hfail
      rw [displayStream_flush_of_clean hclean]
      exact ⟨released, _, (exec_flush_of_clean hclean).trans h, fun y hy => by simp [hclean]⟩
    · obtain ⟨released, h⟩ := exec_flush_of_fail hfail hclean
      rw [displayStream_flush_of_dirty hclean]
      refine ⟨released, _, h, fun y hy => ?_⟩
      simpa using panelLine_of_dirtyRecords (fun _ => none) s.fb s.dirty s.panel hy

end Failures

/-- Settles O49: every clause is read off the state that a failed transaction leaves. -/
theorem failedDisplayOperation : Obligations.FailedDisplayOperation := by
  intro i s e n hi hfail
  obtain ⟨released, pan, hexec, hpanel⟩ := displayOperation_of_fail hfail hi
  exact ⟨_, released, hexec, rfl, rfl, rfl, rfl, rfl, rfl, rfl, displayStream_congr i rfl rfl rfl, hpanel⟩

end Sys2Proof.Machine

/-! Errors (60_exceptions.md): the two setters that check their operand before any transport I/O (R188, R189), and what
an operation that returns an error leaves as it was (R193). -/

namespace Sys2Proof.Machine

/-! ## Operands checked before any I/O -/

theorem exec_setaddr_of_illegal {a : Byte} (h : ¬ legalDeviceAddress a = true) (s : State) :
    exec (.setaddr a) s = .next (s.raise .invalidAddress) := if_neg h

/-- Settles O28: none of the three operands lies in the legal range. -/
theorem setaddrRejectsIllegalAddresses : Obligations.SetaddrRejectsIllegalAddresses := by
  intro s a ha
  refine exec_setaddr_of_illegal (fun hlegal => ?_) s
  obtain ⟨hmin, hmax⟩ := (legalDeviceAddress_iff a).mp hlegal
  simp only [List.mem_cons, List.not_mem_nil, or_false] at ha
  obtain rfl | rfl | rfl := ha
  · exact absurd hmin (by decide)
  · exact absurd hmax (by decide)
  · exact absurd hmax (by decide)

/-- The accepted rates as numbers (R130). -/
theorem acceptedBaud_iff (baud : BitVec 32) : acceptedBaud baud = true ↔
    baud.toNat ∈ [4800, 9600, 14400, 19200, 38400, 56000, 57600, 115200, 129000] :=
  List.contains_iff_mem

theorem exec_setbaud_of_not_accepted {baud : BitVec 32} (h : ¬ acceptedBaud baud = true) (s : State) :
    exec (.setbaud baud) s = .next (s.raise .invalidBaudRate) := if_neg h

/-- Settles O30: any other rate fails the check, which comes before the exchange. -/
theorem setbaudRejectsOtherRates : Obligations.SetbaudRejectsOtherRates := fun s baud hother =>
  exec_setbaud_of_not_accepted (mt (acceptedBaud_iff baud).mp hother) s

/-! ## Which operations return an error, and what they leave -/

section Errors

variable {i : Instr} {s t : State} {k : ErrorKind}

/-- A sensor instruction that returns an error is no SETADDR that took its operand: it did serial I/O at most. -/
theorem withoutSerialIO_of_err (hi : isSensorInstr i = true) (h : exec i s = .next t)
    (herr : t.results = s.results ++ [.err k]) : t.withoutSerialIO = s.withoutSerialIO := by
  obtain hview | ⟨a, -, -, hok, -⟩ := exec_sensor_spec hi h
  · exact hview
  · simp [hok] at herr

/-- A display operation returns `Ok` where the bus accepts its bytes (R161 to R163). -/
theorem displayOperation_results_of_ok (hi : isDisplayOperation i = true) (hok : nextBusAnswer s = .ok)
    (h : exec i s = .next t) : t.results = s.results ++ [.ok] := by
  obtain rfl | rfl | rfl := isDisplayOperation_iff.mp hi
  · rw [← Host.Outcome.next.inj ((exec_hwclear_of_ok hok).symm.trans h)]
  · rw [← Host.Outcome.next.inj ((toggleFlips s hok).symm.trans h)]
  · by_cases hclean : s.dirty = noneDirty
    · have htoggle : exec .flush s = exec .toggle s := exec_flush_of_clean hclean
      rw [← Host.Outcome.next.inj ((toggleFlips s hok).symm.trans (htoggle.symm.trans h))]
    · obtain ⟨pan, hflush, -⟩ := flushSendsTheDirtyLines s hok hclean
      rw [← Host.Outcome.next.inj (hflush.symm.trans h)]

/-- A display operation returns an error only where the bus fails; the error is the bus's own, and nothing is committed
(R165, R190). -/
theorem displayOperation_of_err (hi : isDisplayOperation i = true) (h : exec i s = .next t)
    (herr : t.results = s.results ++ [.err k]) :
    (∃ e, k = .bus e) ∧ t.p = s.p ∧ t.dirty = s.dirty ∧ t.fb = s.fb := by
  cases hanswer : nextBusAnswer s with
  | ok => simp [displayOperation_results_of_ok hi hanswer h] at herr
  | fail e n =>
    obtain ⟨u, -, hu, hres, hp, hdirty, hfb, -⟩ := failedDisplayOperation i s e n hi hanswer
    obtain rfl := Host.Outcome.next.inj (hu.symm.trans h)
    exact ⟨⟨e, by simpa using (hres.symm.trans herr).symm⟩, hp, hdirty, hfb⟩

theorem setpix_results {x y : Word} {c : Colour} (h : exec (.setpix x y c) s = .next t) :
    t.results = s.results ++ [.nothing] := by
  by_cases hgrid : inGrid x y = true
  · obtain ⟨m, d, hexec, -⟩ := exec_setpix_of_inGrid hgrid c s
    rw [← Host.Outcome.next.inj (hexec.symm.trans h)]
  · rw [← Host.Outcome.next.inj ((exec_setpix_of_not_inGrid hgrid c s).symm.trans h), State.finish_results]

/-- The framebuffer unit's operations return no error (R140). -/
theorem framebufferOperation_results_ne_err (hhost : channelOf i = .host) (hsensor : isSensorInstr i = false)
    (hdisplay : isDisplayOperation i = false) (h : exec i s = .next t) (k : ErrorKind) :
    t.results ≠ s.results ++ [.err k] := by
  cases i with
  | setpix => simp [setpix_results h]
  | getpix x y =>
    rw [exec_getpix] at h
    simp [← Host.Outcome.next.inj h]
  | clearto c mark =>
    rw [exec_clearto] at h
    simp [← Host.Outcome.next.inj h]
  | markall =>
    rw [exec_markall] at h
    simp [← Host.Outcome.next.inj h]
  | size =>
    rw [sizeIsConstant.2] at h
    simp [← Host.Outcome.next.inj h]
  | hwclear | toggle | flush => cases hdisplay
  | dcl | dtg | dwrHeader | dwrLine | dwrTrailer => cases hhost
  | _ => cases hsensor

end Errors

/-- Settles O15: an error comes from a sensor operation, which touches no display state and not the bus, or from a
display operation whose bus failed, and that error is `Bus`. -/
theorem errorCommitsNothing : Obligations.ErrorCommitsNothing := by
  intro i s t k hhost h herr
  cases hsensor : isSensorInstr i with
  | true =>
    obtain ⟨hdev, hp, hscs, hfb, hdirty, -, -, -, -, -, -, hbus⟩ :=
      withoutSerialIO_eq_iff.mp (withoutSerialIO_of_err hsensor h herr)
    exact ⟨hdev, hp, hdirty, hfb, fun _ => ⟨hscs, hbus⟩⟩
  | false =>
    obtain ⟨hdev, -⟩ := displayInstructionLeavesTheSensorDriver i s t hsensor h
    cases hdisplay : isDisplayOperation i with
    | true =>
      obtain ⟨⟨e, he⟩, hp, hdirty, hfb⟩ := displayOperation_of_err hdisplay h herr
      exact ⟨hdev, hp, hdirty, hfb, fun hnotBus => absurd he (hnotBus e)⟩
    | false => exact absurd herr (framebufferOperation_results_ne_err hhost hsensor hdisplay h k)

end Sys2Proof.Machine

/-! What the host can touch (70_reset_and_hazards.md R209, R215; 10_state.md R37): for each resource, the only host
operations that change it; and which of the block's own forms may cross a wire. -/

namespace Sys2Proof.Machine

/-! ## What a host operation keeps -/

section Kept

variable {i : Instr} {s t : State}

/-- No instruction makes a wire form wait to cross (R37). -/
theorem exec_crossings (h : exec i s = .next t) : t.crossings = s.crossings := by
  cases hi : isSensorInstr i with
  | true =>
    obtain ⟨-, -, -, -, -, -, -, -, -, -, hcross⟩ := sensorInstructionLeavesTheDisplayDriver i s t hi h
    exact hcross
  | false =>
    obtain ⟨-, -, -, -, -, -, -, hcross⟩ := displayInstructionLeavesTheSensorDriver i s t hi h
    exact hcross

/-- The framebuffer unit's operations write FB and DIRTY, and return; nothing else changes (R140). -/
theorem exec_framebufferOperation (hhost : channelOf i = .host) (hsensor : isSensorInstr i = false)
    (hdisplay : isDisplayOperation i = false) (h : exec i s = .next t) :
    ∃ m d rs, t = { s with fb := m, dirty := d, results := rs } := by
  cases i with
  | setpix x y c =>
    by_cases hgrid : inGrid x y = true
    · obtain ⟨m, d, hexec, -⟩ := exec_setpix_of_inGrid hgrid c s
      exact ⟨m, d, _, Host.Outcome.next.inj (h.symm.trans hexec)⟩
    · exact ⟨_, _, _, Host.Outcome.next.inj (h.symm.trans (exec_setpix_of_not_inGrid hgrid c s))⟩
  | getpix x y => exact ⟨_, _, _, Host.Outcome.next.inj (h.symm.trans (exec_getpix x y s))⟩
  | clearto | markall | size => exact ⟨_, _, _, (Host.Outcome.next.inj h).symm⟩
  | hwclear | toggle | flush => cases hdisplay
  | dcl | dtg | dwrHeader | dwrLine | dwrTrailer => cases hhost
  | _ => cases hsensor

/-- A display operation writes no framebuffer byte and takes no part in a partial write put together from its parts,
whether the bus accepts its bytes or not (R161 to R163, R165, log 11). -/
theorem displayOperation_fb_openWrite (hi : isDisplayOperation i = true) (h : exec i s = .next t) :
    t.fb = s.fb ∧ t.openWrite = s.openWrite := by
  cases hanswer : nextBusAnswer s with
  | fail e n =>
    obtain ⟨released, pan, hexec, -⟩ := displayOperation_of_fail hanswer hi
    rw [← Host.Outcome.next.inj (hexec.symm.trans h)]
    exact ⟨rfl, rfl⟩
  | ok =>
    obtain rfl | rfl | rfl := isDisplayOperation_iff.mp hi
    · rw [← Host.Outcome.next.inj ((exec_hwclear_of_ok hanswer).symm.trans h)]
      exact ⟨rfl, rfl⟩
    · rw [← Host.Outcome.next.inj ((toggleFlips s hanswer).symm.trans h)]
      exact ⟨rfl, rfl⟩
    · by_cases hclean : s.dirty = noneDirty
      · have htoggle : exec .flush s = exec .toggle s := exec_flush_of_clean hclean
        rw [← Host.Outcome.next.inj ((toggleFlips s hanswer).symm.trans (htoggle.symm.trans h))]
        exact ⟨rfl, rfl⟩
      · obtain ⟨pan, hflush, -⟩ := flushSendsTheDirtyLines s hanswer hclean
        rw [← Host.Outcome.next.inj (hflush.symm.trans h)]
        exact ⟨rfl, rfl⟩

/-- A host operation takes no part in a partial write put together from its parts (log 11). -/
theorem exec_host_openWrite (hhost : channelOf i = .host) (h : exec i s = .next t) : t.openWrite = s.openWrite := by
  cases hsensor : isSensorInstr i with
  | true =>
    obtain ⟨-, -, -, -, -, hopen, -⟩ := sensorInstructionLeavesTheDisplayDriver i s t hsensor h
    exact hopen
  | false =>
    cases hdisplay : isDisplayOperation i with
    | true => exact (displayOperation_fb_openWrite hdisplay h).2
    | false =>
      obtain ⟨m, d, rs, rfl⟩ := exec_framebufferOperation hhost hsensor hdisplay h
      rfl

theorem requestOf_eq_none_iff : requestOf i s = none ↔ readRegister i = none ∧ writtenRegister i = none := by
  unfold requestOf
  cases readRegister i <;> cases writtenRegister i <;> simp

/-- An operation that does no exchange, SETADDR and SETBAUD with a rejected operand among them, leaves the serial
transport alone, unless it is the drain (R127, R130, R133). -/
theorem exec_host_serial_of_no_request (hhost : channelOf i = .host) (hreq : requestOf i s = none) (hdrain : i ≠ .drain)
    (h : exec i s = .next t) : t.serialOut = s.serialOut ∧ t.serialRx = s.serialRx := by
  obtain ⟨hread, hwritten⟩ := requestOf_eq_none_iff.mp hreq
  cases hsensor : isSensorInstr i with
  | false =>
    obtain ⟨-, hrx, -, -, hout, -⟩ := displayInstructionLeavesTheSensorDriver i s t hsensor h
    exact ⟨hout, hrx⟩
  | true =>
    cases i with
    | crc16 =>
      rw [← Host.Outcome.next.inj h]
      exact ⟨rfl, rfl⟩
    | setaddr a =>
      have hillegal : ¬ legalDeviceAddress a = true := fun hlegal =>
        nomatch (writtenRegister_setaddr hlegal).symm.trans hwritten
      rw [← Host.Outcome.next.inj ((exec_setaddr_of_illegal hillegal s).symm.trans h)]
      exact ⟨rfl, rfl⟩
    | setbaud baud =>
      have hrejected : ¬ acceptedBaud baud = true := fun haccepted =>
        nomatch (writtenRegister_setbaud haccepted).symm.trans hwritten
      rw [← Host.Outcome.next.inj ((exec_setbaud_of_not_accepted hrejected s).symm.trans h)]
      exact ⟨rfl, rfl⟩
    | rdhr | getempty | getlevel | getinst | getaddr | getbaud | getrange => cases hread
    | wrsr | setinst | setrange => cases hwritten
    | drain => exact absurd rfl hdrain
    | mrqR | mrsR | mrqW | mrsW | mrsX => cases hhost
    | _ => cases hsensor

/-! ## Which operations a change comes from (R215, the last column) -/

theorem exec_host_of_serial_ne (hhost : channelOf i = .host) (h : exec i s = .next t)
    (hne : (t.serialOut, t.serialRx) ≠ (s.serialOut, s.serialRx)) : requestOf i s ≠ none ∨ i = .drain := by
  by_contra hother
  obtain ⟨hreq, hdrain⟩ := not_or.mp hother
  obtain ⟨hout, hrx⟩ := exec_host_serial_of_no_request hhost (not_not.mp hreq) hdrain h
  exact hne (by rw [hout, hrx])

theorem exec_host_of_bus_ne (hhost : channelOf i = .host) (h : exec i s = .next t)
    (hne : (t.busOut, t.scs, t.p) ≠ (s.busOut, s.scs, s.p)) : isDisplayOperation i = true := by
  cases hsensor : isSensorInstr i with
  | true =>
    obtain ⟨hp, hscs, -, -, -, -, -, hout, -⟩ := sensorInstructionLeavesTheDisplayDriver i s t hsensor h
    exact absurd (by rw [hp, hscs, hout]) hne
  | false =>
    cases hdisplay : isDisplayOperation i with
    | true => rfl
    | false =>
      obtain ⟨m, d, rs, rfl⟩ := exec_framebufferOperation hhost hsensor hdisplay h
      exact absurd rfl hne

theorem exec_host_of_fb_ne (hhost : channelOf i = .host) (h : exec i s = .next t) (hne : t.fb ≠ s.fb) :
    (∃ x y c, i = .setpix x y c) ∨ ∃ c mark, i = .clearto c mark := by
  cases hsensor : isSensorInstr i with
  | true =>
    obtain ⟨-, -, hfb, -⟩ := sensorInstructionLeavesTheDisplayDriver i s t hsensor h
    exact absurd hfb hne
  | false =>
    cases i with
    | setpix x y c => exact .inl ⟨x, y, c, rfl⟩
    | clearto c mark => exact .inr ⟨c, mark, rfl⟩
    | getpix x y =>
      rw [← Host.Outcome.next.inj ((exec_getpix x y s).symm.trans h)] at hne
      exact absurd rfl hne
    | markall | size =>
      rw [← Host.Outcome.next.inj h] at hne
      exact absurd rfl hne
    | hwclear | toggle | flush => exact absurd (displayOperation_fb_openWrite rfl h).1 hne
    | dcl | dtg | dwrHeader | dwrLine | dwrTrailer => cases hhost
    | _ => cases hsensor

/-- Of R146's writers, those that the host calls. -/
theorem exec_of_dirty_ne (h : exec i s = .next t) (hne : t.dirty ≠ s.dirty) :
    (∃ x y c, i = .setpix x y c) ∨ (∃ c, i = .clearto c true) ∨ i = .markall ∨ i = .hwclear ∨ i = .flush := by
  cases exec_dirtyWrite h with
  | kept same => exact absurd same hne
  | painted x y c op => exact .inl ⟨x, y, c, op⟩
  | marked op => exact .inr (op.imp_right .inl)
  | cleared op => exact .inr (.inr (.inr op))

end Kept

/-! ## A form that is no traffic of an operation -/

/-- What the sensor does not send may cross only in an operation that emits it; a host operation never (R209, R215). -/
theorem mayCross_of_no_emitter {operation : Option Instr} {form : Instr} (hch : channelOf form ≠ .fromSensor)
    (hnone : ∀ op, operation = some op → emits op form = false) : mayCross operation form = false := by
  have hany : (operation.any fun op => emits op form) = false := by
    cases operation with
    | none => rfl
    | some op => exact hnone op rfl
  unfold mayCross
  cases hform : channelOf form with
  | host => rfl
  | fromSensor => exact absurd hform hch
  | toSensor | display => exact hany

theorem step_of_refused_crossing {s : State} {c : Crossing} {rest : List Crossing} {i : Instr}
    (hc : s.crossings = c :: rest) (hi : decode c.channel c.bytes = .ok i) (hmay : mayCross c.operation i = false) :
    step s = .refused .outsideOperation := by
  have hinstr : crossingInstr c = .error .outsideOperation := by simp [crossingInstr, hi, hmay]
  unfold step fetch
  simp only [hc, hinstr]

/-- Settles O11: with no crossing a step waits or performs the host's next call, and each change comes from one of the
operations listed for it; a word that decodes is a form of its own channel. -/
theorem hostActsThroughOperationsOnly : Obligations.HostActsThroughOperationsOnly := by
  refine ⟨fun s t hc hstep => ?_, fun s c rest i hc hi hch hnone => ?_⟩
  · obtain ⟨rfl, -, -⟩ | ⟨c, rest, i, hcross, -⟩ | ⟨word, rest, i, -, hw, hi, hexec⟩ := step_next hstep
    · exact ⟨hc, rfl, absurd rfl, absurd rfl, absurd rfl, absurd rfl⟩
    · simp [hc] at hcross
    · have hcalls : callsNext s i := ⟨hc, word, rest, hw, hi⟩
      obtain ⟨hhost, -⟩ := encodeOfDecodeIsTheWord .host word i hi
      exact ⟨(exec_crossings hexec).trans hc, (exec_host_openWrite hhost hexec :),
        fun hne => ⟨i, hcalls, (exec_host_of_serial_ne hhost hexec hne :)⟩,
        fun hne => ⟨i, hcalls, exec_host_of_bus_ne hhost hexec hne⟩,
        fun hne => ⟨i, hcalls, exec_host_of_fb_ne hhost hexec hne⟩,
        fun hne => ⟨i, hcalls, exec_of_dirty_ne hexec hne⟩⟩
  · obtain ⟨hchannel, -⟩ := encodeOfDecodeIsTheWord c.channel c.bytes i hi
    exact step_of_refused_crossing hc hi (mayCross_of_no_emitter (hchannel ▸ hch) hnone)

end Sys2Proof.Machine
